-- ==== Sys2Proof/Word.lean ====
section
/-! DEFINITION. The words of the HX4: bytes, instants, counters, tags, and the indices of ports, flows, rule
positions and frame buffers. Only the types and their plainest arithmetic stand here. -/

namespace Sys2Proof

/-- One byte as it travels on a link (R198). -/
abbrev Byte := BitVec 8

/-- A 16-bit field: sequence numbers, requester handles, notice details (R186, R200). -/
abbrev Half := BitVec 16

/-- An instant on the local-time or the cell-time scale, in µs modulo 2^32 (R64, R65). -/
abbrev Instant := BitVec 32

/-- A 32-bit counter that wraps ("Numbers and units", 00_scope.md). -/
abbrev Counter := BitVec 32

/-- A 24-bit stream tag. -/
abbrev Tag := BitVec 24

/-- A frame priority, 0 to 7, 7 the highest. -/
abbrev Prio := BitVec 3

/-- A hop count, 0 to 7. -/
abbrev Hop := BitVec 3

/-- A port set: bit n stands for port Pn. -/
abbrev PortSet := BitVec 4

/-- A kind set: bit 0 DATA, bit 1 REQUEST, bit 2 REPLY, bit 3 NOTICE (R201). -/
abbrev KindSet := BitVec 4

/-- The ports P0 to P3. -/
abbrev Port := Fin 4

/-- Flow indices, 0 to 127 (R61). -/
abbrev FlowIx := Fin 128

/-- Rule positions, 0 to 63 (R1). -/
abbrev RulePos := Fin 64

/-- Frame buffer numbers, 0 to 95 (R96). -/
abbrev BufId := Fin 96

end Sys2Proof
end

