-- ==== Sys2Proof/Syntax.lean ====
section
/-! DEFINITION. The commands of the HX4: one constructor of `Instr` for each row of spec/opcode_table.json,
with the operands the model gives it (the table gives none). -/

namespace Sys2Proof

/-- What one code group on a lane decodes to (R198). -/
inductive Symbol where
  | data (d : Byte)
  | idle
  | align
  | sof
  | eof
  | hold
  | resume
  | invalid
deriving DecidableEq, Repr

/-- A requester key: the port a request arrived on and the requester handle of its tag (R24, R148). -/
structure Key where
  port : Port
  handle : Half
deriving DecidableEq, Repr

/-- The six strap pins (R204). -/
structure Straps where
  station : BitVec 4
  missFlood : Bool
  mgmtP0Only : Bool
deriving DecidableEq, Repr

/-- The rows of the opcode table. The takings of the Management Agent carry no operand: what they carry out
is the request at the head of the request queue (R146). -/
inductive Instr where
  /-- POWER_ON (R204): RESET_N rises with these straps, and with a signal on these lanes. -/
  | powerOn (straps : Straps) (signals : PortSet)
  /-- RESET_HELD (R204): RESET_N is low. -/
  | resetHeld
  /-- SIGNAL_DETECTED (R120). -/
  | signalDetected (p : Port)
  /-- SIGNAL_LOST (R120). -/
  | signalLost (p : Port)
  /-- TRAINING_SYMBOL (R121): the code group received. -/
  | trainingSymbol (p : Port) (code : BitVec 10)
  /-- SOF_RECEIVED (R125). -/
  | sofReceived (p : Port)
  /-- DATA_BYTE_RECEIVED (R125). -/
  | dataByteReceived (p : Port) (d : Byte)
  /-- FRAME_END (R125): EOF is received. -/
  | frameEnd (p : Port)
  /-- RECEIVE_ERROR (R127): the symbol at which the error is detected. -/
  | receiveError (p : Port) (sym : Symbol)
  /-- INVALID_SYMBOL (R122). -/
  | invalidSymbol (p : Port)
  /-- HOLD_RECEIVED (R137). -/
  | holdReceived (p : Port)
  /-- RESUME_RECEIVED (R137). -/
  | resumeReceived (p : Port)
  /-- HOLD_EXPIRY (R137). -/
  | holdExpiry (p : Port)
  /-- LEAK (R131). -/
  | leak (p : Port)
  /-- QUARANTINE_END (R135). -/
  | quarantineEnd (p : Port)
  /-- HOLD_REPEAT (R103). -/
  | holdRepeat
  /-- SELECTION (R110). -/
  | selection (p : Port)
  /-- TRANSMISSION_END (R111). -/
  | transmissionEnd (p : Port)
  /-- DEADLINE_EXPIRY (R72). -/
  | deadlineExpiry (i : FlowIx)
  /-- FILL_UP (R91). -/
  | fillUp (i : FlowIx)
  /-- LEASE_EXPIRY (R27). -/
  | leaseExpiry
  /-- ACTIVATION (R34). -/
  | activation
  /-- MIRROR_STEP (R37). -/
  | mirrorStep
  /-- AGENT_READY (R146). -/
  | agentReady
  /-- REQUESTER_ENTRY_EXPIRY (R152): the entry of this key. -/
  | requesterEntryExpiry (k : Key)
  /-- MALFORMED (R147). -/
  | malformed
  /-- REPLAY (R155). -/
  | replay
  /-- UNKNOWN_COMMAND (R149). -/
  | unknownCommand
  /-- IDENTIFY (R163). -/
  | identify
  /-- READ_COUNTERS_PORT (R166). -/
  | readCountersPort
  /-- READ_COUNTERS_POOL (R106). -/
  | readCountersPool
  /-- READ_COUNTERS_AGENT (R158). -/
  | readCountersAgent
  /-- READ_COUNTERS_RULES (R19). -/
  | readCountersRules
  /-- ADJUST_TIME (R164). -/
  | adjustTime
  /-- OPEN_EDIT (R25). -/
  | openEdit
  /-- WRITE_RULE (R169). -/
  | writeRule
  /-- CLEAR_RULES (R170). -/
  | clearRules
  /-- WRITE_MISS (R171). -/
  | writeMiss
  /-- READ_RULES (R172). -/
  | readRules
  /-- COMMIT_NOW (R31). -/
  | commitNow
  /-- COMMIT_AT (R32). -/
  | commitAt
  /-- ABANDON (R36). -/
  | abandon
  /-- WRITE_FLOW (R78). -/
  | writeFlow
  /-- READ_FLOW (R79). -/
  | readFlow
  /-- SET_PORT (R177). -/
  | setPort
  /-- READ_PORT (R180). -/
  | readPort
  /-- RELEASE_PORT (R181). -/
  | releasePort
  /-- SET_NOTICES (R182). -/
  | setNotices
  /-- RESET_TRAFFIC (R184). -/
  | resetTraffic
  /-- RESET_FULL (R185). -/
  | resetFull
  /-- NOTICE_BUILD (R191). -/
  | noticeBuild
deriving DecidableEq, Repr

end Sys2Proof
end

