-- ==== Sys2Proof/Decode.lean ====
section
/-! DEFINITION. The command that a word spells by the opcode table's bits. No row of spec/opcode_table.json
gives bits (the HX4 takes happenings, not instruction words), so no word spells a command. -/

namespace Sys2Proof

/-- The command spelled by the table's bits: none, for the table gives no row any bits (log 2). -/
def decodeTableWord (_nbits _w : Nat) : Option Instr := none

end Sys2Proof
end

