-- ==== Sys2Proof/Config.lean ====
section
/-! DEFINITION. The constants the manual fixes for the part, each named once. The manual leaves no value of a
happening open, so there is no free value here. -/

namespace Sys2Proof.Config

/-- Number of frame buffers (R96). -/
abbrev poolSize : Nat := 96
/-- Free buffers an ingress allocation needs, which leaves a reserve of 4 (R98). -/
abbrev ingressNeed : Nat := 5
/-- Free buffers an agent allocation needs (R99). -/
abbrev agentNeed : Nat := 1
/-- An allocation that leaves this many free buffers or fewer enters HOLDING (R102). -/
abbrev holdEnter : Nat := 11
/-- A release that leaves this many free buffers or more leaves HOLDING (R104). -/
abbrev holdLeave : Nat := 24
/-- Spacing of the HOLD repeats, in µs (R103). -/
abbrev holdRepeatSpacing : Instant := 500
/-- Valid symbols in a row that complete training (R121). -/
abbrev trainingLength : Nat := 64
/-- Invalid symbols in a row at which UP loses lock (R122). -/
abbrev lockLimit : Nat := 4
/-- The largest error score (R130). -/
abbrev scoreMax : Nat := 1023
/-- The largest payload of a frame, in bytes (R127). -/
abbrev payloadMax : Nat := 128
/-- Places of the request queue (R145). -/
abbrev requestPlaces : Nat := 4
/-- Entries of the requester table (R150). -/
abbrev requesterPlaces : Nat := 4
/-- The Agent's busy interval, in µs (R146). -/
abbrev busyInterval : Instant := 10
/-- Life of an unused, unprotected requester-table entry, in µs (R152). -/
abbrev entryLife : Instant := 900000000
/-- Places of the notice queue (R188). -/
abbrev noticePlaces : Nat := 32
/-- Records of one NOTICE frame at most (R191). -/
abbrev recordsPerFrame : Nat := 12
/-- The policer's fill-up interval, 2^30 µs (R91). -/
abbrev fillUpInterval : Instant := 0x40000000
/-- The furthest a COMMIT AT may lie ahead, in µs (R32). -/
abbrev commitWindow : Nat := 60000000
/-- Symbol times in a microsecond: 20 ns each ("Link timing", R111). -/
abbrev symbolsPerMicro : Nat := 50
/-- The wildcard station (R45). -/
abbrev wildcardStation : Byte := 255
/-- The hop of a frame the part builds (R153, R191). -/
abbrev builtHop : Hop := 7
/-- Vendor code (R163). -/
abbrev vendorCode : Half := 0x0A57
/-- Part code (R163). -/
abbrev partCode : Half := 0x0484
/-- Revision (R163). -/
abbrev revision : Byte := 1

end Sys2Proof.Config
end

