-- ==== Sys2Proof/Machine/Types.lean ====
section
/-! DEFINITION. The records the HX4's blocks hold, as plain data: what `State` is made of. Fields that the
manual makes present in some states only are arguments of those states. -/

namespace Sys2Proof.Machine

/-! ### The Rule Table (01) and the Bank Controller (02) -/

/-- What the miss record does with a frame that matches no entry (R8). -/
inductive MissAction where
  | drop
  | flood
deriving DecidableEq, Repr

/-- A tag rewrite: the value has every bit outside the mask at 0 (R1, R12). -/
structure Rewrite where
  value : Tag
  mask : Tag
deriving DecidableEq, Repr

/-- The action of a rule entry. The forward set, the new priority and the rewrite belong to FORWARD alone (R1). -/
inductive RuleAction where
  | drop
  | forward (set : PortSet) (newPrio : Option Prio) (rewrite : Option Rewrite)
deriving DecidableEq, Repr

/-- One rule entry (R1). -/
structure RuleEntry where
  valid : Bool
  matchValue : Tag
  matchMask : Tag
  ingress : PortSet
  kinds : KindSet
  lo : Prio
  hi : Prio
  action : RuleAction
  flow : Option FlowIx
deriving DecidableEq, Repr

/-- One rule bank: 64 entries and a miss record (R1, R8). -/
structure Bank where
  entries : Vector RuleEntry 64
  miss : MissAction
deriving DecidableEq, Repr

/-- The Bank Controller's record: each state with the fields present in it (R22). MIRRORING also keeps the
instant at which it was entered, from which R37 times every step (log 11). -/
inductive Controller where
  | free
  | editing (holder : Key) (duration : Nat) (expiry : Instant)
  | scheduled (holder : Key) (activation : Instant)
  | mirroring (progress : Fin 65) (entered : Instant)
deriving DecidableEq, Repr

/-! ### The flow table (04, 05) -/

/-- What the policer does with a frame that does not conform (R61, R89). -/
inductive OverAction where
  | drop
  | demote
deriving DecidableEq, Repr

/-- A flow's configuration (R61). -/
structure FlowConfig where
  period : BitVec 32
  tolerance : BitVec 32
  lossLimit : Nat
  rate : Nat
  burst : Nat
  overAction : OverAction
  notifyLate : Bool
  notifyLost : Bool
  notifyRecovered : Bool
deriving DecidableEq, Repr

/-- The states of a flow (R62, R63). -/
inductive FlowState where
  | unused
  | armed
  | onTime
  | late
  | lost
deriving DecidableEq, Repr

/-- One flow entry (R61, R62). -/
structure FlowEntry where
  cfg : FlowConfig
  state : FlowState
  missCount : Nat
  deadline : Option Instant
  lastArrival : Option Instant
  tokens : Nat
  lastRefill : Instant
  passed : Counter
  policed : Counter
  early : Counter
  lateEvents : Counter
deriving DecidableEq, Repr

/-! ### Frame buffers and egress queues (06) -/

/-- One frame buffer: its reference count, 0 when it is free, and the bytes it holds (R96). -/
structure Buffer where
  refs : Nat
  bytes : List Byte
deriving DecidableEq, Repr

/-- The pool's hold state; the next repeat is present in HOLDING only (R96). -/
inductive HoldState where
  | normal
  | holding (nextRepeat : Instant)
deriving DecidableEq, Repr

/-- The Frame Buffer Pool's record, the free count apart, which is computed (R96). -/
structure Pool where
  bufs : Vector Buffer 96
  minFree : Nat
  hold : HoldState
  holdEntries : Counter
deriving DecidableEq, Repr

/-- The block that placed an egress entry (R107). -/
inductive Origin where
  | forwarded
  | reply
  | notice
deriving DecidableEq, Repr

/-- One entry of an egress queue (R107). -/
structure QueueEntry where
  buf : BufId
  prio : Prio
  time : Instant
  origin : Origin
deriving DecidableEq, Repr

/-- A control symbol the pool hands to a transmitter (R105). -/
inductive Ctl where
  | hold
  | resume
deriving DecidableEq, Repr

/-- A transmission in progress: the buffer and the symbols of SOF, frame and EOF still to send (R111). -/
structure Tx where
  buf : BufId
  left : Nat
deriving DecidableEq, Repr

/-! ### Link ports (07) -/

/-- The states of a port with the fields each lists (R119). The partner-held flag is set exactly while the
hold expiry is present, so one optional instant holds both. -/
inductive LinkState where
  | disabled
  | down
  | training (count : Nat)
  | up (invalidRun : Nat) (heldUntil : Option Instant)
  | quarantine (endAt : Instant)
deriving DecidableEq, Repr

/-- What the receiver is doing between symbols: between frames, ignoring symbols after an error (R127), or
inside a frame, with the buffer it holds, if any, and the bytes counted so far (R119, R125); the last form is a frame
whose buffer a FULL reset has taken at this very instant, so that an EOF of the same instant comes together with the
reset (R60, R185, log 29). -/
inductive Reception where
  | idle
  | ignoring
  | frame (buf : Option BufId) (bytes : List Byte)
  | stripped (bytes : List Byte)
deriving DecidableEq, Repr

/-- The buffer and the bytes of the frame that the receiver is inside, if any; a stripped one has no buffer. -/
def Reception.inside : Reception → Option (Option BufId × List Byte)
  | .idle => none
  | .ignoring => none
  | .frame buf bytes => some (buf, bytes)
  | .stripped bytes => some (none, bytes)

/-- The buffer that a reception holds, if any (R97). -/
def Reception.buffer : Reception → Option BufId
  | .frame buf _ => buf
  | .idle => none
  | .ignoring => none
  | .stripped _ => none

/-- A reception when time passes: what comes now no longer comes together with a FULL reset, and the frame goes on
without its buffer (R117, R143, log 29). -/
def Reception.later : Reception → Reception
  | .stripped bytes => .frame none bytes
  | .idle => .idle
  | .ignoring => .ignoring
  | .frame buf bytes => .frame buf bytes

/-- A port's configuration (R138). -/
structure PortConfig where
  enable : Bool
  accepts : Bool
  queueLimit : Nat
  ageLimit : Nat
  warnThreshold : Nat
  quarantineThreshold : Nat
  leakInterval : Nat
  holdLimit : Nat
  quarantineHold : Nat
deriving DecidableEq, Repr

/-- The nineteen counters of a port, in the order of R166. -/
structure PortCounters where
  rxGood : Counter
  rxHeaderCheck : Counter
  rxFrameCheck : Counter
  rxLength : Counter
  rxRunt : Counter
  rxCode : Counter
  hopExpired : Counter
  missDrop : Counter
  ruleDrop : Counter
  policedDrop : Counter
  noRoute : Counter
  poolEmpty : Counter
  mgmtRefused : Counter
  quarantineDiscard : Counter
  txFrames : Counter
  queueFull : Counter
  aged : Counter
  flushed : Counter
  aborted : Counter
deriving DecidableEq, Repr

/-- One Link Port with its Egress Scheduler (R107, R119, R138, R140). -/
structure PortRec where
  signal : Bool
  link : LinkState
  score : Nat
  warned : Bool
  nextLeak : Option Instant
  rx : Reception
  cfg : PortConfig
  counters : PortCounters
  queue : List QueueEntry
  tx : Option Tx
  ctl : List Ctl
deriving DecidableEq, Repr

/-! ### The Management Agent (08) -/

/-- One entry of the request queue (R145). -/
structure Request where
  buf : BufId
  port : Port
deriving DecidableEq, Repr

/-- One entry of the requester table (R150). -/
structure Requester where
  key : Key
  seq : Half
  reply : List Byte
  lastUsed : Instant
deriving DecidableEq, Repr

/-- The Agent's counters (R158). -/
structure AgentCounters where
  requestsTaken : Counter
  replay : Counter
  overflow : Counter
  malformed : Counter
  replyDropped : Counter
deriving DecidableEq, Repr

/-- The Management Agent. `busyUntil` is absent while the Agent is READY (R146, log 12); the table stands from
the least to the most recently used entry (R150). -/
structure Agent where
  queue : List Request
  busyUntil : Option Instant
  table : List Requester
  counters : AgentCounters
deriving DecidableEq, Repr

/-! ### The Notice Unit (10) -/

/-- The twelve notice kinds (R186). -/
inductive NoticeKind where
  | flowLate
  | flowLost
  | flowRecovered
  | portUp
  | portDown
  | portWarn
  | portQuarantined
  | poolLow
  | commitDone
  | leaseExpired
  | noticesLost
  | restarted
deriving DecidableEq, Repr

/-- One notice record (R186). -/
structure Record where
  seq : Half
  kind : NoticeKind
  time : Instant
  subject : Byte
  detail : Half
deriving DecidableEq, Repr

/-- The notice configuration (R193). -/
structure NoticeConfig where
  dest : Port
  tag : Tag
  prio : Prio
  mask : BitVec 12
deriving DecidableEq, Repr

/-- The Notice Unit; `waiting` is the port whose queue holds the waiting frame, if there is one (R191). -/
structure NoticeUnit where
  queue : List Record
  nextSeq : Half
  lost : Counter
  cfg : NoticeConfig
  waiting : Option Port
deriving DecidableEq, Repr

/-! ### Frames -/

/-- The kinds of frame (R199). -/
inductive FrameKind where
  | data
  | request
  | reply
  | notice
deriving DecidableEq, Repr

/-- The header fields of a frame, the header check apart (R199). -/
structure Header where
  kind : FrameKind
  prio : Prio
  hop : Hop
  tag : Tag
  payloadLength : Byte
deriving DecidableEq, Repr

/-- The five receive errors (R127). -/
inductive RxError where
  | headerCheck
  | length
  | runt
  | frameCheck
  | code
deriving DecidableEq, Repr

/-- A rule lookup's result for the Classifier (R7): the winning position and its entry, or a miss. -/
inductive Lookup where
  | hit (pos : RulePos) (entry : RuleEntry)
  | miss (action : MissAction)
deriving DecidableEq, Repr

/-- The flow's answer to the Classifier (R52). -/
inductive Verdict where
  | pass
  | demote
  | drop
deriving DecidableEq, Repr

/-! ### Management requests and replies -/

/-- The reply statuses (R156). -/
inductive Status where
  | ok
  | unknownCommand
  | badLength
  | badArgument
  | badState
  | notHolder
  | noLease
  | pending
  | mirroring
  | lockout
deriving DecidableEq, Repr

/-- A request as the Agent takes it: its queue entry with the fields of its frame that the Agent reads
(R147, R148, R153). -/
structure Taken where
  buf : BufId
  port : Port
  prio : Prio
  tag : Tag
  payload : List Byte
deriving DecidableEq, Repr

/-- The rule entry image field by field, as it travels (R201). -/
structure RuleImage where
  valid : Bool
  dropAction : Bool
  hasPrio : Bool
  hasRewrite : Bool
  hasFlow : Bool
  reserved0 : BitVec 3
  matchValue : Tag
  matchMask : Tag
  ingress : PortSet
  forward : PortSet
  kinds : KindSet
  reserved8 : BitVec 4
  lo : Prio
  hi : Prio
  reserved9 : BitVec 2
  newPrio : Prio
  reserved10 : BitVec 5
  rwValue : Tag
  rwMask : Tag
  flowIx : Byte
deriving DecidableEq, Repr

/-- The flow configuration image field by field (R202). -/
structure FlowImage where
  period : BitVec 32
  tolerance : BitVec 32
  lossLimit : Byte
  rate : Half
  burst : Half
  overAction : Byte
  notify : Byte
deriving DecidableEq, Repr

/-- The port configuration image field by field (R202). -/
structure PortImage where
  flags : Byte
  queueLimit : Byte
  ageLimit : Byte
  warnThreshold : Half
  quarantineThreshold : Half
  leakInterval : Byte
  holdLimit : Byte
  quarantineHold : Byte
deriving DecidableEq, Repr

end Sys2Proof.Machine
end

