-- ==== Sys2Proof/Machine/Bits.lean ====
section
/-! DEFINITION. Bytes and bit fields: fields sent most significant byte first, the two checks, the code groups
of the lanes, the frame header, and the numeric codes of kinds, states and statuses (11); and the comparison of
instants (00). -/

namespace Sys2Proof.Machine

/-! ### Comparing instants (00_scope.md) -/

/-- "A is at or before B" on one scale, modulo 2^32 ("Comparing instants", R66). -/
def atOrBefore (a b : Instant) : Bool := (b - a).toNat < 2 ^ 31

/-- "A is before B" on one scale. -/
def before (a b : Instant) : Bool := atOrBefore a b && a != b

/-! ### Fields of several bytes, most significant byte first (11, conventions) -/

/-- Byte `i` of a byte string. -/
def byteAt (l : List Byte) (i : Nat) : Byte := l.getD i 0

/-- The 2-byte field at byte `i`. -/
def halfAt (l : List Byte) (i : Nat) : Half := byteAt l i ++ byteAt l (i + 1)

/-- The 3-byte field at byte `i`. -/
def tagAt (l : List Byte) (i : Nat) : Tag := byteAt l i ++ byteAt l (i + 1) ++ byteAt l (i + 2)

/-- The 4-byte field at byte `i`. -/
def wordAt (l : List Byte) (i : Nat) : BitVec 32 :=
  byteAt l i ++ byteAt l (i + 1) ++ byteAt l (i + 2) ++ byteAt l (i + 3)

/-- A 2-byte field as bytes. -/
def be16 (v : Half) : List Byte := [v.extractLsb' 8 8, v.extractLsb' 0 8]

/-- A 3-byte field as bytes. -/
def be24 (v : Tag) : List Byte := [v.extractLsb' 16 8, v.extractLsb' 8 8, v.extractLsb' 0 8]

/-- A 4-byte field as bytes. -/
def be32 (v : BitVec 32) : List Byte :=
  [v.extractLsb' 24 8, v.extractLsb' 16 8, v.extractLsb' 8 8, v.extractLsb' 0 8]

/-- A small number as one byte. -/
def byteOf (n : Nat) : Byte := BitVec.ofNat 8 n

/-- A yes-or-no value as a bit. -/
def bit (b : Bool) : BitVec 1 := BitVec.ofBool b

/-! ### The checks (R199) -/

/-- One bit through the check register: shift towards the top, and XOR with the generator's low bits when the bit
shifted out differs from the incoming one. -/
def crcBit {w : Nat} (low r : BitVec w) (b : Bool) : BitVec w :=
  if r.msb != b then (r <<< 1) ^^^ low else r <<< 1

/-- One byte through the check register, most significant bit first. -/
def crcByte {w : Nat} (low r : BitVec w) (d : Byte) : BitVec w :=
  [7, 6, 5, 4, 3, 2, 1, 0].foldl (fun r i => crcBit low r (d.getLsbD i)) r

/-- The header check, over header bytes 0 to 4. -/
def headerCheck (l : List Byte) : Byte := l.foldl (crcByte 0x63) 0xFF

/-- The frame check, over the 6 header bytes and the payload. -/
def frameCheck (l : List Byte) : Half := l.foldl (crcByte 0x4A2D) 0xFFFF

/-! ### Link symbols (R198) -/

/-- The symbol a received code group decodes to. -/
def decodeSymbol (c : BitVec 10) : Symbol :=
  if c.extractLsb' 8 2 = 1#2 then .data (c.extractLsb' 0 8)
  else if c = 0x23C then .idle
  else if c = 0x25A then .align
  else if c = 0x2F1 then .sof
  else if c = 0x2E2 then .eof
  else if c = 0x2A5 then .hold
  else if c = 0x296 then .resume
  else .invalid

/-- The code group the transmitter sends for a symbol; none for an invalid one, which it never sends. -/
def encodeSymbol : Symbol → Option (BitVec 10)
  | .data d => some (1#2 ++ d)
  | .idle => some 0x23C
  | .align => some 0x25A
  | .sof => some 0x2F1
  | .eof => some 0x2E2
  | .hold => some 0x2A5
  | .resume => some 0x296
  | .invalid => none

/-- Valid in the sense of training: a data byte or a control symbol (R121). -/
def symbolValid (sym : Symbol) : Bool := sym != .invalid

/-! ### The frame header (R199) -/

/-- The 2-bit code of a frame kind. -/
def kindCode : FrameKind → BitVec 2
  | .data => 0
  | .request => 1
  | .reply => 2
  | .notice => 3

/-- The frame kind of a 2-bit code. -/
def kindOfCode (c : BitVec 2) : FrameKind :=
  if c = 0 then .data else if c = 1 then .request else if c = 2 then .reply else .notice

/-- The header fields of a received frame. -/
def headerOf (l : List Byte) : Header :=
  { kind := kindOfCode ((byteAt l 0).extractLsb' 6 2)
    prio := (byteAt l 0).extractLsb' 3 3
    hop := (byteAt l 0).extractLsb' 0 3
    tag := tagAt l 1
    payloadLength := byteAt l 4 }

/-- Header bytes 0 to 4. -/
def headerFields (h : Header) : List Byte :=
  (kindCode h.kind ++ h.prio ++ h.hop) :: be24 h.tag ++ [h.payloadLength]

/-- The 6 header bytes, the header check computed. -/
def headerBytes (h : Header) : List Byte := headerFields h ++ [headerCheck (headerFields h)]

/-- A whole frame between SOF and EOF: header, payload and computed checks. -/
def frameBytes (h : Header) (payload : List Byte) : List Byte :=
  headerBytes h ++ payload ++ be16 (frameCheck (headerBytes h ++ payload))

/-- The payload of the frame in a buffer: as many bytes after the header as the header's payload length. -/
def payloadOf (l : List Byte) : List Byte := (l.drop 6).take (byteAt l 4).toNat

/-- What a transmitter sends of the frame in a buffer, both checks computed as it sends (R58, R111). -/
def wireBytes (l : List Byte) : List Byte := frameBytes (headerOf l) (payloadOf l)

/-- The header of a frame the part builds around a payload (R153, R191). -/
def builtHeader (kind : FrameKind) (prio : Prio) (tag : Tag) (payload : List Byte) : Header :=
  { kind, prio, hop := Config.builtHop, tag, payloadLength := byteOf payload.length }

/-- The target station of a REQUEST or REPLY tag (R199). -/
def targetOf (t : Tag) : Byte := t.extractLsb' 16 8

/-- The requester handle of a REQUEST or REPLY tag (R199). -/
def handleOf (t : Tag) : Half := t.extractLsb' 0 16

/-! ### Codes (R200, R203) -/

/-- The status codes. -/
def statusCode : Status → Byte
  | .ok => 0
  | .unknownCommand => 1
  | .badLength => 2
  | .badArgument => 3
  | .badState => 4
  | .notHolder => 5
  | .noLease => 6
  | .pending => 7
  | .mirroring => 8
  | .lockout => 9

/-- The controller state codes. -/
def controllerCode : Controller → Byte
  | .free => 0
  | .editing .. => 1
  | .scheduled .. => 2
  | .mirroring .. => 3

/-- The hold state codes. -/
def holdCode : HoldState → Byte
  | .normal => 0
  | .holding _ => 1

/-- The flow state codes. -/
def flowStateCode : FlowState → Byte
  | .unused => 0
  | .armed => 1
  | .onTime => 2
  | .late => 3
  | .lost => 4

/-- The port state codes. -/
def linkCode : LinkState → Byte
  | .disabled => 0
  | .down => 1
  | .training _ => 2
  | .up .. => 3
  | .quarantine _ => 4

/-- The miss action codes. -/
def missCode : MissAction → Byte
  | .drop => 0
  | .flood => 1

/-- The notice kind codes (R203). -/
def noticeCode : NoticeKind → Byte
  | .flowLate => 1
  | .flowLost => 2
  | .flowRecovered => 3
  | .portUp => 4
  | .portDown => 5
  | .portWarn => 6
  | .portQuarantined => 7
  | .poolLow => 8
  | .commitDone => 9
  | .leaseExpired => 10
  | .noticesLost => 11
  | .restarted => 12

/-- Whether the enable mask holds the bit of a kind: bit (code - 1) (R203). -/
def kindEnabled (mask : BitVec 12) (k : NoticeKind) : Bool := mask.getLsbD ((noticeCode k).toNat - 1)

/-- A notice record as its 10 bytes (R203). -/
def recordBytes (r : Record) : List Byte :=
  be16 r.seq ++ [noticeCode r.kind] ++ be32 r.time ++ [r.subject] ++ be16 r.detail

/-- The payload of a NOTICE frame: the record count, then the records in queue order (R203). -/
def noticePayload (rs : List Record) : List Byte := byteOf rs.length :: rs.flatMap recordBytes

end Sys2Proof.Machine
end

