-- ==== Sys2Proof/Machine/Initial.lean ====
section
/-! DEFINITION. What each block holds after power-on, block by block, and the cleared and default forms that
resets and commands store. -/

namespace Sys2Proof.Machine

/-- The cleared rule entry (R2). -/
def clearedRule : RuleEntry :=
  { valid := false, matchValue := 0, matchMask := 0, ingress := 0, kinds := 0, lo := 0, hi := 0,
    action := .drop, flow := none }

/-- The miss record that the MISS_FLOOD strap gives (R8, R20). -/
def strapMiss (st : Straps) : MissAction := if st.missFlood then .flood else .drop

/-- A bank after power-on and after FULL (R20). -/
def clearedBank (st : Straps) : Bank :=
  { entries := Vector.replicate 64 clearedRule, miss := strapMiss st }

/-- The configuration of the cleared flow entry (R62). -/
def clearedFlowConfig : FlowConfig :=
  { period := 100, tolerance := 0, lossLimit := 1, rate := 0, burst := 1, overAction := .drop,
    notifyLate := false, notifyLost := false, notifyRecovered := false }

/-- The cleared flow entry, cleared at local time `t` (R62). -/
def clearedFlow (t : Instant) : FlowEntry :=
  { cfg := clearedFlowConfig, state := .unused, missCount := 0, deadline := none, lastArrival := none,
    tokens := 0, lastRefill := t, passed := 0, policed := 0, early := 0, lateEvents := 0 }

/-- A free buffer: no holder, and no bytes that could be read (R96, R100). -/
def freeBuffer : Buffer := { refs := 0, bytes := [] }

/-- The pool after power-on (R96). -/
def initialPool : Pool :=
  { bufs := Vector.replicate 96 freeBuffer, minFree := 96, hold := .normal, holdEntries := 0 }

/-- The accept-management default of a port, from the MGMT_P0_ONLY strap (R138). -/
def strapAccepts (st : Straps) (p : Port) : Bool := !st.mgmtP0Only || p == 0

/-- A port's default configuration (R138). -/
def defaultPortConfig (st : Straps) (p : Port) : PortConfig :=
  { enable := true, accepts := strapAccepts st p, queueLimit := 48, ageLimit := 32, warnThreshold := 64,
    quarantineThreshold := 192, leakInterval := 10, holdLimit := 10, quarantineHold := 10 }

/-- All nineteen port counters at 0 (R59, R115, R140). -/
def zeroPortCounters : PortCounters :=
  { rxGood := 0, rxHeaderCheck := 0, rxFrameCheck := 0, rxLength := 0, rxRunt := 0, rxCode := 0,
    hopExpired := 0, missDrop := 0, ruleDrop := 0, policedDrop := 0, noRoute := 0, poolEmpty := 0,
    mgmtRefused := 0, quarantineDiscard := 0, txFrames := 0, queueFull := 0, aged := 0, flushed := 0,
    aborted := 0 }

/-- A port after power-on, its lane with or without a signal (R142, R115). -/
def initialPort (st : Straps) (signals : PortSet) (p : Port) : PortRec :=
  { signal := signals.getLsbD p
    link := if signals.getLsbD p then .training 0 else .down
    score := 0, warned := false, nextLeak := none, rx := .idle
    cfg := defaultPortConfig st p, counters := zeroPortCounters
    queue := [], tx := none, ctl := [] }

/-- The Agent's counters at 0 (R158). -/
def zeroAgentCounters : AgentCounters :=
  { requestsTaken := 0, replay := 0, overflow := 0, malformed := 0, replyDropped := 0 }

/-- The Management Agent after power-on (R160). -/
def initialAgent : Agent :=
  { queue := [], busyUntil := none, table := [], counters := zeroAgentCounters }

/-- The default notice configuration (R193). -/
def defaultNoticeConfig : NoticeConfig := { dest := 0, tag := 0, prio := 7, mask := 0xFFF }

/-- The Notice Unit after power-on, its RESTARTED record made (R196). -/
def initialNotices : NoticeUnit :=
  { queue := [{ seq := 0, kind := .restarted, time := 0, subject := 0, detail := 0 }]
    nextSeq := 1, lost := 0, cfg := defaultNoticeConfig, waiting := none }

end Sys2Proof.Machine
end

