-- ==== Sys2Proof/Machine/State.lean ====
section
/-! DEFINITION. The state of the HX4: every register, table, queue and line the manual gives it, and the queue
of the commands that wait. -/

namespace Sys2Proof.Machine

/-- Why the machine could stop with a fault: for nothing. The manual names no happening that stops the part;
a refused request is a reply with a status (R156) and a damaged frame is counted (R127). -/
inductive Fault
deriving DecidableEq, Repr

/-- Why a command has no meaning. -/
inductive Refusal where
  /-- Raised by an arm of `exec` for a command the model gives no meaning (none is left so). Safe: the run stops. -/
  | notModelled (mnemonic : String)
deriving DecidableEq, Repr

/-- The HX4. -/
structure State where
  /-- RESET_N is high, and the part runs (R204). -/
  running : Bool
  /-- The straps as latched at the last release of RESET (R204). -/
  straps : Straps
  /-- Local time, in µs (R64). -/
  localTime : Instant
  /-- Symbol times since local time last advanced, 0 to 49 (log 20). -/
  phase : Nat
  /-- The cell-time offset (R65). -/
  offset : BitVec 32
  /-- The four Link Ports with their Egress Schedulers. -/
  ports : Vector PortRec 4
  /-- The Frame Buffer Pool. -/
  pool : Pool
  /-- Rule banks 0 and 1. -/
  banks : Vector Bank 2
  /-- The active-bank pointer (R21). -/
  active : Fin 2
  /-- The hit counters of the active bank (R18). -/
  hits : Vector Counter 64
  /-- The Bank Controller. -/
  ctrl : Controller
  /-- The flow table. -/
  flows : Vector FlowEntry 128
  /-- The Management Agent. -/
  agent : Agent
  /-- The Notice Unit. -/
  notices : NoticeUnit
  /-- The commands that wait, first in, first out. -/
  pending : List Instr
deriving DecidableEq, Repr

/-- Every block at its power-on state, with these straps latched and a signal on these lanes (R20, R40, R83,
R96, R115, R142, R160, R196, R204). -/
def State.powerOn (st : Straps) (signals : PortSet) : State :=
  { running := true, straps := st, localTime := 0, phase := 0, offset := 0
    ports := Vector.ofFn (initialPort st signals)
    pool := initialPool
    banks := Vector.replicate 2 (clearedBank st), active := 0
    hits := Vector.replicate 64 0, ctrl := .free
    flows := Vector.replicate 128 (clearedFlow 0)
    agent := initialAgent, notices := initialNotices, pending := [] }

/-- The machine right after reset: RESET released with every strap low and no lane with a signal (log 3). -/
def State.reset : State :=
  State.powerOn { station := 0, missFlood := false, mgmtP0Only := false } 0

end Sys2Proof.Machine
end

