-- ==== Sys2Proof/Machine/Ops.lean ====
section
/-! DEFINITION. The named operations over State: reading and writing ports, flows and buffers, the two times,
raising a notice, and the frame buffer pool (R64 to R66, R96 to R106, R187, R188). -/

namespace Sys2Proof.Machine

/-! ### Reading and writing one element -/

/-- The record of a port. -/
def State.port (s : State) (p : Port) : PortRec := s.ports.get p

/-- The state with one port's record replaced. -/
def State.setPort (s : State) (p : Port) (x : PortRec) : State := { s with ports := s.ports.set p x }

/-- The state with one port's counters changed. -/
def State.countPort (s : State) (p : Port) (f : PortCounters → PortCounters) : State :=
  s.setPort p { s.port p with counters := f (s.port p).counters }

/-- A flow entry. -/
def State.flow (s : State) (i : FlowIx) : FlowEntry := s.flows.get i

/-- The state with one flow entry replaced. -/
def State.setFlow (s : State) (i : FlowIx) (f : FlowEntry) : State := { s with flows := s.flows.set i f }

/-- A frame buffer. -/
def State.buf (s : State) (b : BufId) : Buffer := s.pool.bufs.get b

/-- The state with one frame buffer replaced. -/
def State.setBuf (s : State) (b : BufId) (x : Buffer) : State :=
  { s with pool := { s.pool with bufs := s.pool.bufs.set b x } }

/-- The bank that the active-bank pointer names (R21). -/
def State.activeBank (s : State) : Bank := s.banks.get s.active

/-- The number of the shadow bank (R21). -/
def State.shadow (s : State) : Fin 2 := s.active + 1

/-- The bank that is not active (R21). -/
def State.shadowBank (s : State) : Bank := s.banks.get s.shadow

/-- The state with the shadow bank replaced. -/
def State.setShadow (s : State) (b : Bank) : State := { s with banks := s.banks.set s.shadow b }

/-- The port is in the UP state. -/
def PortRec.isUp (x : PortRec) : Bool :=
  match x.link with
  | .up .. => true
  | _ => false

/-- The port is in the TRAINING state. -/
def PortRec.isTraining (x : PortRec) : Bool :=
  match x.link with
  | .training _ => true
  | _ => false

/-- The port is in the QUARANTINE state. -/
def PortRec.isQuarantine (x : PortRec) : Bool :=
  match x.link with
  | .quarantine _ => true
  | _ => false

/-- The partner-held flag (R119). -/
def PortRec.isHeld (x : PortRec) : Bool :=
  match x.link with
  | .up _ (some _) => true
  | _ => false

/-! ### Time (R64 to R66) -/

/-- Cell time: local time plus the offset, modulo 2^32 (R65). -/
def State.cellTime (s : State) : Instant := s.localTime + s.offset

/-- A local-time instant converted to cell time with the offset as it stands (R65). -/
def State.toCell (s : State) (t : Instant) : Instant := t + s.offset

/-- A local-time instant has passed (R66). -/
def State.passed (s : State) (t : Instant) : Bool := atOrBefore t s.localTime

/-- The local-time instant `n` µs from now. -/
def State.after (s : State) (n : Nat) : Instant := s.localTime + BitVec.ofNat 32 n

/-- The time from now to a local-time instant in whole milliseconds, rounded up; 0 once it has passed (log 18). -/
def State.msLeft (s : State) (t : Instant) : Nat :=
  if s.passed t then 0 else ((t - s.localTime).toNat + 999) / 1000

/-! ### Notices (R187, R188) -/

/-- A raised notice takes its number and is queued or lost; one whose kind is disabled leaves no trace (R187, R188). -/
def pushNotice (u : NoticeUnit) (k : NoticeKind) (time : Instant) (subject : Byte) (detail : Half) : NoticeUnit :=
  if kindEnabled u.cfg.mask k then
    if u.queue.length < Config.noticePlaces then
      { u with nextSeq := u.nextSeq + 1,
               queue := u.queue ++ [{ seq := u.nextSeq, kind := k, time, subject, detail }] }
    else { u with nextSeq := u.nextSeq + 1, lost := if u.lost = 0xFFFFFFFF then u.lost else u.lost + 1 }
  else u

/-- A block raises a notice timestamped with the cell time `time` (R186, R187). -/
def State.raiseAt (s : State) (k : NoticeKind) (time : Instant) (subject : Byte) (detail : Half) : State :=
  { s with notices := pushNotice s.notices k time subject detail }

/-- A block raises a notice timestamped with the present cell time (R186). -/
def State.raise (s : State) (k : NoticeKind) (subject : Byte) (detail : Half) : State :=
  s.raiseAt k s.cellTime subject detail

/-! ### The pool (R96 to R106) -/

/-- The number of free buffers (R96). -/
def Pool.freeCount (p : Pool) : Nat := (List.finRange 96).countP (fun b => (p.bufs.get b).refs == 0)

/-- The number of free buffers (R96). -/
def State.freeCount (s : State) : Nat := s.pool.freeCount

/-- The free buffer an allocation takes. Which one cannot be seen from outside (R96): the model takes the lowest
numbered (log 9). -/
def Pool.firstFree (p : Pool) : Option BufId := (List.finRange 96).find? (fun b => (p.bufs.get b).refs == 0)

/-- Hand a HOLD or RESUME to the transmitter of every UP port (R102 to R105). -/
def State.sendToUp (s : State) (c : Ctl) : State :=
  { s with ports := Vector.ofFn fun p : Port =>
      if (s.port p).isUp then { s.port p with ctl := (s.port p).ctl ++ [c] } else s.port p }

/-- The hold state decided at an allocation (R102). -/
def State.decideAtAlloc (s : State) : State :=
  match s.pool.hold with
  | .holding _ => s
  | .normal =>
    if s.freeCount ≤ Config.holdEnter then
      (({ s with pool := { s.pool with hold := .holding (s.localTime + Config.holdRepeatSpacing),
                                       holdEntries := s.pool.holdEntries + 1 } }).sendToUp .hold).raise
        .poolLow 0 (BitVec.ofNat 16 s.freeCount)
    else s

/-- Buffer `b` leaves the free buffers, held once and empty, and minimum free follows (R98, R99). -/
def State.takeBuffer (s : State) (b : BufId) : State :=
  let s := s.setBuf b { refs := 1, bytes := [] }
  { s with pool := { s.pool with minFree := min s.pool.minFree s.freeCount } }

/-- An allocation that needs `need` free buffers (R98, R99): the buffer and the state after it, or none and nothing
changed. -/
def State.alloc (s : State) (need : Nat) : Option (BufId × State) :=
  if s.freeCount < need then none
  else
    match s.pool.firstFree with
    | some b => some (b, (s.takeBuffer b).decideAtAlloc)
    | none => none

/-- A holder gives its reference back; a count that falls to 0 frees the buffer and its bytes (R97, R100). -/
def dropBuffer (x : Buffer) : Buffer := if x.refs ≤ 1 then freeBuffer else { x with refs := x.refs - 1 }

/-- One reference to a buffer is given back; the hold state is decided at the end of the happening (`settle`). -/
def State.dropRef (s : State) (b : BufId) : State := s.setBuf b (dropBuffer (s.buf b))

/-- A reference to a buffer given back, where one is held. -/
def State.dropRef? (s : State) (b : Option BufId) : State :=
  match b with
  | some b => s.dropRef b
  | none => s

/-- Several references given back in one happening (R100). -/
def State.dropRefs (s : State) (bs : List BufId) : State := bs.foldl State.dropRef s

/-- The hold state decided at a release (R104). -/
def State.decideAtRelease (s : State) : State :=
  match s.pool.hold with
  | .normal => s
  | .holding _ =>
    if Config.holdLeave ≤ s.freeCount then
      ({ s with pool := { s.pool with hold := .normal } }).sendToUp .resume
    else s

/-- The end of a happening that may have released buffers: when it has, since the state `base`, the hold state is
decided once, on the free count that results (R100, R104, log 14). -/
def State.settle (s base : State) : State := if base.freeCount < s.freeCount then s.decideAtRelease else s

/-- A byte is written into a buffer behind those it holds (R98). -/
def State.writeByte (s : State) (b : BufId) (d : Byte) : State :=
  s.setBuf b { s.buf b with bytes := (s.buf b).bytes ++ [d] }

/-- A frame is written into a buffer. -/
def State.writeFrame (s : State) (b : BufId) (l : List Byte) : State := s.setBuf b { s.buf b with bytes := l }

end Sys2Proof.Machine
end

