-- ==== Sys2Proof/Machine/Banks.lean ====
section
/-! DEFINITION. The Bank Controller's own operations: holder and lease checks, renewal, the swap, the mirror copy,
and the writes to the shadow bank (R22 to R38). -/

namespace Sys2Proof.Machine

/-- The holder of the edit lease, present in EDITING and SCHEDULED (R22). -/
def holderOf : Controller → Option Key
  | .free => none
  | .editing h _ _ => some h
  | .scheduled h _ => some h
  | .mirroring _ _ => none

/-- The state and holder check of WRITE_RULE, CLEAR_RULES, WRITE_MISS, COMMIT and ABANDON (R28): the status that
refuses the command, or none when it is accepted for checking. -/
def editGate (c : Controller) (k : Key) (isAbandon : Bool) : Option Status :=
  match c with
  | .free => some .noLease
  | .editing h _ _ => if h = k then none else some .notHolder
  | .scheduled h _ => if h = k then (if isAbandon then none else some .pending) else some .notHolder
  | .mirroring _ _ => some .mirroring

/-- Microseconds of a lease duration given in seconds. -/
def leaseMicros (seconds : Nat) : Nat := seconds * 1000000

/-- The lease of requester `k` renewed, if it holds one in EDITING (R26). -/
def State.renew (s : State) (k : Key) : State :=
  match s.ctrl with
  | .editing h d _ => if h = k then { s with ctrl := .editing h d (s.after (leaseMicros d)) } else s
  | _ => s

/-- The three results of an edit-session command (R167, R200). -/
def State.leaseResults (s : State) : List Byte :=
  match s.ctrl with
  | .editing _ _ e => [controllerCode s.ctrl, byteOf s.active, 1] ++ be32 (BitVec.ofNat 32 (s.msLeft e))
  | c => [controllerCode c, byteOf s.active, 0] ++ be32 0

/-- The protection of requester `k` ends: its entry's last-used time becomes now, its place stays (R152). -/
def State.unprotect (s : State) (k : Key) : State :=
  { s with agent := { s.agent with table := s.agent.table.map fun e =>
      if e.key = k then { e with lastUsed := s.localTime } else e } }

/-- The lease ends and MIRRORING is entered with progress 0 (R27, R33, R36). -/
def State.startMirror (s : State) : State :=
  let s := match holderOf s.ctrl with
    | some k => s.unprotect k
    | none => s
  { s with ctrl := .mirroring 0 s.localTime }

/-- A swap (R33): the pointer flips, the hit counters go to 0, COMMIT_DONE is raised, the lease ends, and MIRRORING
is entered. -/
def State.swap (s : State) : State :=
  let t := { s with active := s.shadow, hits := Vector.replicate 64 0 }
  let t := match holderOf s.ctrl with
    | some k => t.raise .commitDone (byteOf t.active) k.handle
    | none => t
  t.startMirror

/-- An activation instant `t` is at or before the cell time `c` as R32 and R35 draw the line: it is ahead by 1 to
2^31 - 1 µs, or else it is reached (log 21). -/
def activationReached (t c : Instant) : Bool := t == c || 2 ^ 31 ≤ (t - c).toNat

/-- A scheduled activation instant is at or before the present cell time (R34, R35). -/
def State.activationDue (s : State) : Bool :=
  match s.ctrl with
  | .scheduled _ t => activationReached t s.cellTime
  | _ => false

/-- One entry of the shadow bank replaced (R29). -/
def State.setShadowEntry (s : State) (i : RulePos) (e : RuleEntry) : State :=
  s.setShadow { s.shadowBank with entries := s.shadowBank.entries.set i e }

/-- The cleared entry at positions `first` to `first + count - 1` of the shadow bank (R29, R170). -/
def State.clearShadow (s : State) (first count : Nat) : State :=
  s.setShadow { s.shadowBank with entries := Vector.ofFn fun i : RulePos =>
    if first ≤ i.val ∧ i.val < first + count then clearedRule else s.shadowBank.entries.get i }

/-- The mirror step of number `k` (R37): one entry, or at step 64 the miss record, after which the controller is FREE. -/
def State.mirrorCopy (s : State) (k : Fin 65) (entered : Instant) : State :=
  if h : k.val < 64 then
    { s.setShadowEntry ⟨k.val, h⟩ (s.activeBank.entries.get ⟨k.val, h⟩) with
      ctrl := .mirroring ⟨k.val + 1, Nat.succ_lt_succ h⟩ entered }
  else { s.setShadow { s.shadowBank with miss := s.activeBank.miss } with ctrl := .free }

/-- The instant of mirror step `k`: k + 1 µs after MIRRORING was entered (R37). -/
def mirrorAt (entered : Instant) (k : Fin 65) : Instant := entered + BitVec.ofNat 32 (k.val + 1)

end Sys2Proof.Machine
end

