-- ==== Sys2Proof/Machine/Flags.lean ====
section
/-! DEFINITION. Flags: the warned flag's test, the FAULT line, and the flag bytes of results (R132, R195, R200). -/

namespace Sys2Proof.Machine

/-- The warned flag as the score and the warn threshold leave it (R132). -/
def warnedAfter (x : PortRec) : Bool :=
  if x.warned then x.cfg.warnThreshold ≤ 2 * x.score else x.cfg.warnThreshold ≤ x.score

/-- The condition each port presents to the Notice Unit, true for some port (R136). -/
def State.anyQuarantine (s : State) : Bool := (List.finRange 4).any fun p => (s.port p).isQuarantine

/-- The condition the Flow Supervisor presents to the Notice Unit (R76). -/
def State.anyLost (s : State) : Bool := (List.finRange 128).any fun i => (s.flow i).state == .lost

/-- FAULT: asserted while a port is in QUARANTINE or a flow is LOST; deasserted while RESET is held (R195, R204). -/
def State.faultAsserted (s : State) : Bool := s.running && (s.anyQuarantine || s.anyLost)

/-- The level of the FAULT_N pin with its pull-up: low while FAULT is asserted (R204). -/
def State.faultN (s : State) : Bool := !s.faultAsserted

/-- The strap-values byte of IDENTIFY (R200). -/
def strapByte (st : Straps) : Byte := 0#2 ++ bit st.mgmtP0Only ++ bit st.missFlood ++ st.station

/-- The flags byte of the port results: warned, partner-held, quarantine time left present (R200). -/
def portFlagsByte (x : PortRec) : Byte := 0#5 ++ bit x.isQuarantine ++ bit x.isHeld ++ bit x.warned

/-- The presence flags of READ_FLOW: deadline, last arrival (R200). -/
def flowPresenceByte (f : FlowEntry) : Byte := 0#6 ++ bit f.lastArrival.isSome ++ bit f.deadline.isSome

end Sys2Proof.Machine
end

