-- ==== Sys2Proof/Machine/Queues.lean ====
section
/-! DEFINITION. The egress queues and the transmitters: enqueue, selection, transmission, flush and abort, and the
symbol a transmitter sends (R105, R107 to R116, R118). -/

namespace Sys2Proof.Machine

/-! ### Enqueue (R107, R108) -/

/-- An entry joins its level behind every entry already there; the list runs from level 7 down (R107, R108). -/
def insertEntry (e : QueueEntry) : List QueueEntry → List QueueEntry
  | [] => [e]
  | x :: xs => if e.prio ≤ x.prio then x :: insertEntry e xs else e :: x :: xs

/-- Whether a port's queue accepts an entry: the port is UP and the depth is below the limit (R108). -/
def PortRec.canAccept (x : PortRec) : Bool := x.isUp && x.queue.length < x.cfg.queueLimit

/-- An accepted entry joins the queue of a port. -/
def State.enqueue (s : State) (p : Port) (e : QueueEntry) : State :=
  s.setPort p { s.port p with queue := insertEntry e (s.port p).queue }

/-! ### The waiting NOTICE frame (R192) -/

/-- Entries that left a queue: one of origin NOTICE tells the Notice Unit, and no frame waits any more (R114, R192). -/
def State.noticeLeft (s : State) (es : List QueueEntry) : State :=
  if es.any (fun e => e.origin == .notice) then { s with notices := { s.notices with waiting := none } } else s

/-! ### Selection and transmission (R109 to R111) -/

/-- Whether an entry is older than the port's age limit (R110). -/
def entryAged (limit : Nat) (now : Instant) (e : QueueEntry) : Bool :=
  limit != 0 && limit * 1000 < (now - e.time).toNat

/-- A selection through a queue: the entries discarded by ageing, the entry sent, if any, and those left (R110). -/
def selectFrom (limit : Nat) (now : Instant) : List QueueEntry → List QueueEntry × Option QueueEntry × List QueueEntry
  | [] => ([], none, [])
  | e :: es =>
    if entryAged limit now e then
      let (aged, sent, rest) := selectFrom limit now es
      (e :: aged, sent, rest)
    else ([], some e, es)

/-- The four conditions of a selection (R109). -/
def PortRec.canSelect (x : PortRec) : Bool := x.isUp && !x.isHeld && x.tx.isNone && !x.queue.isEmpty

/-- Symbols of the transmission of the frame in a buffer: its length and 2 delimiters (R111). -/
def frameSymbols (bytes : List Byte) : Nat := (byteAt bytes 4).toNat + 8 + 2

/-- A selection at a port whose conditions hold, the hold decision apart (R110, R192). -/
def State.select (s : State) (p : Port) : State :=
  if (s.port p).canSelect then
    let x := s.port p
    let (aged, sent, rest) := selectFrom x.cfg.ageLimit s.localTime x.queue
    let s := s.setPort p { x with
      queue := rest
      tx := sent.map fun e => { buf := e.buf, left := frameSymbols (s.buf e.buf).bytes }
      counters := { x.counters with aged := x.counters.aged + BitVec.ofNat 32 aged.length } }
    (s.dropRefs (aged.map (·.buf))).noticeLeft (aged ++ sent.toList)
  else s

/-- The end of the transmission at a port, its EOF sent: TX_FRAMES, the reference, and a selection at once (R111). -/
def State.endTransmission (s : State) (p : Port) (t : Tx) : State :=
  let x := s.port p
  ((s.setPort p { x with tx := none, counters := { x.counters with txFrames := x.counters.txFrames + 1 } }).dropRef
    t.buf).select p

/-! ### Flush and abort (R114) -/

/-- A port's queue is emptied and its transmission cut short, the hold decision apart (R114). -/
def State.flushPort (s : State) (p : Port) : State :=
  let x := s.port p
  let s := s.setPort p { x with
    queue := []
    tx := none
    counters := { x.counters with
      flushed := x.counters.flushed + BitVec.ofNat 32 x.queue.length
      aborted := if x.tx.isSome then x.counters.aborted + 1 else x.counters.aborted } }
  (s.dropRefs (x.queue.map (·.buf) ++ x.tx.toList.map (·.buf))).noticeLeft x.queue

/-! ### What the transmitter sends (R105, R118, R198) -/

/-- The symbol of a frame in transmission with `left` symbols to send: SOF, the bytes, EOF (R111). -/
def frameSymbol (wire : List Byte) (left : Nat) : Symbol :=
  if left = 1 then .eof
  else if left = wire.length + 2 then .sof
  else .data (wire.getD (wire.length + 1 - left) 0)

/-- The symbol a port's transmitter sends at this symbol time; none when the lane is silent (R118, R105, R204). -/
def State.txSymbol (s : State) (p : Port) : Option Symbol :=
  if s.running then
    match (s.port p).link with
    | .disabled => none
    | .down => some .align
    | .training _ => some .align
    | .quarantine _ => some .idle
    | .up .. =>
      match (s.port p).ctl, (s.port p).tx with
      | .hold :: _, _ => some .hold
      | .resume :: _, _ => some .resume
      | [], some t => some (if t.left = 0 then .idle else frameSymbol (wireBytes (s.buf t.buf).bytes) t.left)
      | [], none => some .idle
  else none

/-- One symbol time at a port: its transmitter sends a control symbol handed to it, else a symbol of the frame (R105),
and its reception is a symbol time older. -/
def PortRec.symbolTime (x : PortRec) : PortRec :=
  if x.isUp then
    match x.ctl with
    | _ :: cs => { x with ctl := cs, rx := x.rx.later }
    | [] => { x with tx := x.tx.map fun t => { t with left := t.left - 1 }, rx := x.rx.later }
  else x

end Sys2Proof.Machine
end

