-- ==== Sys2Proof/Machine/Ports.lean ====
section
/-! DEFINITION. The Link Port's own operations: the error score and its tests, quarantine, and the moves between
the port states (R120 to R124, R130 to R136). None of them decides the hold state: a happening does so once, at its
end (`State.settle`). -/

namespace Sys2Proof.Machine

/-- A port number as the subject of a notice (R136). -/
def portSubject (p : Port) : Byte := byteOf p

/-- The warned test of R132, with its notice. -/
def State.warnedTest (s : State) (p : Port) : State :=
  let x := s.port p
  let t := s.setPort p { x with warned := warnedAfter x }
  if !x.warned && warnedAfter x then t.raise .portWarn (portSubject p) (BitVec.ofNat 16 x.score) else t

/-- The local-time instant one leak interval from now (R131). -/
def State.leakFromNow (s : State) (x : PortRec) : Instant := s.after (x.cfg.leakInterval * 1000)

/-- A rise of the score by `w`, capped, with the warned test (R130, R131, R132). -/
def State.scoreRise (s : State) (p : Port) (w : Nat) : State :=
  let x := s.port p
  (s.setPort p { x with
    score := min Config.scoreMax (x.score + w)
    nextLeak := if x.score = 0 then some (s.leakFromNow x) else x.nextLeak }).warnedTest p

/-- Entry to QUARANTINE from UP or TRAINING (R133). -/
def State.enterQuarantine (s : State) (p : Port) : State :=
  let s := if (s.port p).isUp then s.flushPort p else s
  let x := s.port p
  (s.setPort p { x with
    link := .quarantine (s.after (x.cfg.quarantineHold * 100000)), nextLeak := none, ctl := [] }).raise
      .portQuarantined (portSubject p) (BitVec.ofNat 16 x.score)

/-- The quarantine test of R133. -/
def State.quarantineTest (s : State) (p : Port) : State :=
  let x := s.port p
  if (x.isUp || x.isTraining) && x.cfg.quarantineThreshold ≤ x.score then s.enterQuarantine p else s

/-- A departure from UP to DOWN, TRAINING or DISABLED (R123, R114). -/
def State.leaveUp (s : State) (p : Port) (dest : LinkState) : State :=
  let s := s.flushPort p
  (s.setPort p { s.port p with link := dest, ctl := [] }).raise .portDown (portSubject p)
    ((linkCode dest).setWidth 16)

/-- A reception in progress, if any, is discarded uncounted and its buffer released (R129). -/
def State.dropReception (s : State) (p : Port) : State :=
  (s.setPort p { s.port p with rx := .idle }).dropRef? (s.port p).rx.buffer

/-- Entry to TRAINING, where the receiver parses no frames, with the quarantine test (R121, R133, log 10). -/
def State.enterTraining (s : State) (p : Port) : State :=
  let s := s.dropReception p
  (s.setPort p { s.port p with link := .training 0 }).quarantineTest p

/-- Entry to UP from TRAINING (R121, R103). -/
def State.enterUp (s : State) (p : Port) : State :=
  let x := s.port p
  (s.setPort p { x with
    link := .up 0 none
    rx := .idle
    ctl := match s.pool.hold with
      | .holding _ => x.ctl ++ [.hold]
      | .normal => x.ctl }).raise .portUp (portSubject p) (BitVec.ofNat 16 x.score)

/-- The leak resumes from a score kept at the end of a quarantine (R131, R135). -/
def State.resumeLeak (s : State) (p : Port) : State :=
  let x := s.port p
  s.setPort p { x with nextLeak := if x.score = 0 then none else some (s.leakFromNow x) }

/-- A quarantine ended by its hold time or by RELEASE_PORT (R135). -/
def State.endQuarantine (s : State) (p : Port) : State :=
  (s.setPort p { s.port p with score := 0, warned := false, nextLeak := none }).enterTraining p

/-- Enable turned off (R124, R129, R135). -/
def State.disablePort (s : State) (p : Port) : State :=
  (match (s.port p).link with
    | .disabled => s
    | .down => s.setPort p { s.port p with link := .disabled }
    | .training _ => s.setPort p { s.port p with link := .disabled }
    | .up .. => s.leaveUp p .disabled
    | .quarantine _ => (s.setPort p { s.port p with link := .disabled }).resumeLeak p).dropReception p

/-- Enable turned on: TRAINING or DOWN by the signal, the quarantine test left to its place in the command
(R124, R138, log 17). -/
def State.enablePort (s : State) (p : Port) : State :=
  let x := s.port p
  match x.link with
  | .disabled => s.setPort p { x with link := if x.signal then .training 0 else .down }
  | _ => s

end Sys2Proof.Machine
end

