-- ==== Sys2Proof/Machine/Operands.lean ====
section
/-! DEFINITION. The operands of the management commands: the fields of a request (R147, R200) and the images of
rule entries, flow configurations and port configurations, with the checks made on each (R15 to R17, R77, R177,
R201, R202). -/

namespace Sys2Proof.Machine

/-! ### Requests (R147, R148, R200) -/

/-- A request as the Agent reads it from its buffer: the port of its queue entry and the fields of its frame. -/
def takenOf (r : Request) (bytes : List Byte) : Taken :=
  { buf := r.buf, port := r.port, prio := (headerOf bytes).prio, tag := (headerOf bytes).tag,
    payload := payloadOf bytes }

/-- The command code, byte 0 of the payload. -/
def Taken.code (r : Taken) : Byte := byteAt r.payload 0

/-- The sequence number, bytes 1 and 2 of the payload. -/
def Taken.seq (r : Taken) : Half := halfAt r.payload 1

/-- The argument bytes, from byte 3. -/
def Taken.args (r : Taken) : List Byte := r.payload.drop 3

/-- The requester key: the port of arrival and the handle; the target station plays no part (R148). -/
def Taken.key (r : Taken) : Key := { port := r.port, handle := handleOf r.tag }

/-- The reply payload: code, sequence number, status, results (R153, R200). -/
def replyPayload (r : Taken) (st : Status) (results : List Byte) : List Byte :=
  r.code :: be16 r.seq ++ [statusCode st] ++ results

/-- An index argument, if it is one of the ports. -/
def portArg (b : Byte) : Option Port := if h : b.toNat < 4 then some ⟨b.toNat, h⟩ else none

/-- An index argument, if it is one of the rule positions. -/
def posArg (b : Byte) : Option RulePos := if h : b.toNat < 64 then some ⟨b.toNat, h⟩ else none

/-- An index argument, if it is one of the flows. -/
def flowArg (b : Byte) : Option FlowIx := if h : b.toNat < 128 then some ⟨b.toNat, h⟩ else none

/-- Whether positions `first` to `first + count - 1` exist and number 1 to `most` (R165, R170, R172). -/
def rangeOk (first count : Byte) (most : Nat) : Bool :=
  first.toNat < 64 && 0 < count.toNat && count.toNat ≤ most && first.toNat + count.toNat ≤ 64

/-- Whether position `i` is one of `first` to `first + count - 1`. -/
def inRange (first count : Byte) (i : Nat) : Bool := first.toNat ≤ i && i < first.toNat + count.toNat

/-! ### The rule entry image (R201) -/

/-- The fields of an 18-byte rule entry image. -/
def ruleImageOf (l : List Byte) : RuleImage :=
  { valid := (byteAt l 0).getLsbD 0
    dropAction := (byteAt l 0).getLsbD 1
    hasPrio := (byteAt l 0).getLsbD 2
    hasRewrite := (byteAt l 0).getLsbD 3
    hasFlow := (byteAt l 0).getLsbD 4
    reserved0 := (byteAt l 0).extractLsb' 5 3
    matchValue := tagAt l 1
    matchMask := tagAt l 4
    ingress := (byteAt l 7).extractLsb' 0 4
    forward := (byteAt l 7).extractLsb' 4 4
    kinds := (byteAt l 8).extractLsb' 0 4
    reserved8 := (byteAt l 8).extractLsb' 4 4
    lo := (byteAt l 9).extractLsb' 0 3
    hi := (byteAt l 9).extractLsb' 3 3
    reserved9 := (byteAt l 9).extractLsb' 6 2
    newPrio := (byteAt l 10).extractLsb' 0 3
    reserved10 := (byteAt l 10).extractLsb' 3 5
    rwValue := tagAt l 11
    rwMask := tagAt l 14
    flowIx := byteAt l 17 }

/-- An image as its 18 bytes. -/
def ruleImageBytes (m : RuleImage) : List Byte :=
  [m.reserved0 ++ bit m.hasFlow ++ bit m.hasRewrite ++ bit m.hasPrio ++ bit m.dropAction ++ bit m.valid]
    ++ be24 m.matchValue ++ be24 m.matchMask ++ [m.forward ++ m.ingress, m.reserved8 ++ m.kinds,
      m.reserved9 ++ m.hi ++ m.lo, m.reserved10 ++ m.newPrio]
    ++ be24 m.rwValue ++ be24 m.rwMask ++ [m.flowIx]

/-- Check 9 of R15: every reserved bit, and every field of a part the image does not carry, is 0. -/
def ruleReservedOk (m : RuleImage) : Bool :=
  m.reserved0 == 0 && m.reserved8 == 0 && m.reserved9 == 0 && m.reserved10 == 0
    && (!m.dropAction || m.forward == 0)
    && (m.hasPrio || m.newPrio == 0)
    && (m.hasRewrite || (m.rwValue == 0 && m.rwMask == 0))
    && (m.hasFlow || m.flowIx == 0)

/-- Checks 2 to 9 of R15, on an image marked valid. -/
def ruleImageOk (m : RuleImage) : Bool :=
  m.ingress != 0
    && m.kinds != 0
    && m.lo ≤ m.hi
    && (m.dropAction || m.forward != 0)
    && (!m.dropAction || (!m.hasPrio && !m.hasRewrite))
    && (!m.hasRewrite || m.rwMask != 0)
    && (!m.hasFlow || m.flowIx.toNat ≤ 127)
    && ruleReservedOk m

/-- The entry an accepted image stores: the normalised form of R17, or the cleared entry for an image marked not
valid (R16). -/
def ruleOfImage (m : RuleImage) : RuleEntry :=
  if m.valid then
    { valid := true
      matchValue := m.matchValue &&& m.matchMask
      matchMask := m.matchMask
      ingress := m.ingress
      kinds := m.kinds
      lo := m.lo
      hi := m.hi
      action :=
        if m.dropAction then .drop
        else .forward m.forward (if m.hasPrio then some m.newPrio else none)
          (if m.hasRewrite then some { value := m.rwValue &&& m.rwMask, mask := m.rwMask } else none)
      flow := if m.hasFlow then flowArg m.flowIx else none }
  else clearedRule

/-- The image of a stored entry, its reserved bits and absent parts 0 (R201). -/
def ruleImage (e : RuleEntry) : RuleImage :=
  let base : RuleImage :=
    { valid := e.valid, dropAction := true, hasPrio := false, hasRewrite := false, hasFlow := e.flow.isSome
      reserved0 := 0, matchValue := e.matchValue, matchMask := e.matchMask, ingress := e.ingress, forward := 0
      kinds := e.kinds, reserved8 := 0, lo := e.lo, hi := e.hi, reserved9 := 0, newPrio := 0, reserved10 := 0
      rwValue := 0, rwMask := 0
      flowIx := match e.flow with | some i => byteOf i | none => 0 }
  match e.action with
  | .drop => base
  | .forward set newPrio rewrite =>
    { base with
      dropAction := false
      forward := set
      hasPrio := newPrio.isSome
      newPrio := newPrio.getD 0
      hasRewrite := rewrite.isSome
      rwValue := match rewrite with | some w => w.value | none => 0
      rwMask := match rewrite with | some w => w.mask | none => 0 }

/-- The entry image READ_RULES returns for a stored entry. -/
def ruleEntryBytes (e : RuleEntry) : List Byte := ruleImageBytes (ruleImage e)

/-! ### The flow configuration image (R202) -/

/-- The fields of a 15-byte flow configuration image. -/
def flowImageOf (l : List Byte) : FlowImage :=
  { period := wordAt l 0, tolerance := wordAt l 4, lossLimit := byteAt l 8, rate := halfAt l 9
    burst := halfAt l 11, overAction := byteAt l 13, notify := byteAt l 14 }

/-- An image as its 15 bytes. -/
def flowImageBytes (m : FlowImage) : List Byte :=
  be32 m.period ++ be32 m.tolerance ++ [m.lossLimit] ++ be16 m.rate ++ be16 m.burst ++ [m.overAction, m.notify]

/-- The checks R77 makes on the image of an ARMED write. -/
def flowImageOk (m : FlowImage) : Bool :=
  100 ≤ m.period.toNat && m.period.toNat ≤ 2000000
    && m.tolerance.toNat ≤ m.period.toNat / 2
    && 1 ≤ m.lossLimit.toNat && m.lossLimit.toNat ≤ 15
    && m.burst != 0
    && m.overAction.toNat ≤ 1
    && m.notify.extractLsb' 3 5 == 0

/-- The configuration an accepted image gives. -/
def flowConfigOf (m : FlowImage) : FlowConfig :=
  { period := m.period, tolerance := m.tolerance, lossLimit := m.lossLimit.toNat, rate := m.rate.toNat
    burst := m.burst.toNat, overAction := if m.overAction = 0 then .drop else .demote
    notifyLate := m.notify.getLsbD 0, notifyLost := m.notify.getLsbD 1, notifyRecovered := m.notify.getLsbD 2 }

/-- The image of a stored configuration. -/
def flowImage (c : FlowConfig) : FlowImage :=
  { period := c.period, tolerance := c.tolerance, lossLimit := byteOf c.lossLimit
    rate := BitVec.ofNat 16 c.rate, burst := BitVec.ofNat 16 c.burst
    overAction := match c.overAction with | .drop => 0 | .demote => 1
    notify := 0#5 ++ bit c.notifyRecovered ++ bit c.notifyLost ++ bit c.notifyLate }

/-! ### The port configuration image (R202) -/

/-- The fields of a 10-byte port configuration image. -/
def portImageOf (l : List Byte) : PortImage :=
  { flags := byteAt l 0, queueLimit := byteAt l 1, ageLimit := byteAt l 2, warnThreshold := halfAt l 3
    quarantineThreshold := halfAt l 5, leakInterval := byteAt l 7, holdLimit := byteAt l 8
    quarantineHold := byteAt l 9 }

/-- An image as its 10 bytes. -/
def portImageBytes (m : PortImage) : List Byte :=
  [m.flags, m.queueLimit, m.ageLimit] ++ be16 m.warnThreshold ++ be16 m.quarantineThreshold
    ++ [m.leakInterval, m.holdLimit, m.quarantineHold]

/-- Checks 2 and 3 of R177: every setting in its range, the reserved bits 0, the thresholds in order. -/
def portImageOk (m : PortImage) : Bool :=
  m.flags.extractLsb' 2 6 == 0
    && 1 ≤ m.queueLimit.toNat && m.queueLimit.toNat ≤ 48
    && 1 ≤ m.warnThreshold.toNat && m.warnThreshold.toNat ≤ 1022
    && 1 ≤ m.leakInterval.toNat
    && 1 ≤ m.holdLimit.toNat
    && 1 ≤ m.quarantineHold.toNat
    && m.warnThreshold.toNat < m.quarantineThreshold.toNat && m.quarantineThreshold.toNat ≤ 1023

/-- The configuration an accepted image gives. -/
def portConfigOf (m : PortImage) : PortConfig :=
  { enable := m.flags.getLsbD 0, accepts := m.flags.getLsbD 1, queueLimit := m.queueLimit.toNat
    ageLimit := m.ageLimit.toNat, warnThreshold := m.warnThreshold.toNat
    quarantineThreshold := m.quarantineThreshold.toNat, leakInterval := m.leakInterval.toNat
    holdLimit := m.holdLimit.toNat, quarantineHold := m.quarantineHold.toNat }

/-- The image of a stored configuration. -/
def portImage (c : PortConfig) : PortImage :=
  { flags := 0#6 ++ bit c.accepts ++ bit c.enable, queueLimit := byteOf c.queueLimit
    ageLimit := byteOf c.ageLimit, warnThreshold := BitVec.ofNat 16 c.warnThreshold
    quarantineThreshold := BitVec.ofNat 16 c.quarantineThreshold, leakInterval := byteOf c.leakInterval
    holdLimit := byteOf c.holdLimit, quarantineHold := byteOf c.quarantineHold }

end Sys2Proof.Machine
end

