-- ==== Sys2Proof/Machine/Flow.lean ====
section
/-! DEFINITION. What a frame end, a deadline expiry, a fill-up, a write and a reset do to one flow entry
(04, 05). Each is a function of the entry alone, with the notice it raises, if any. -/

namespace Sys2Proof.Machine

/-- The notice a flow raises: its kind and its detail (R75). -/
abbrev FlowNotice := NoticeKind × Half

/-- A notice kept only when the flow's notify flag for it is set (R75). -/
def flagged (flag : Bool) (k : NoticeKind) (detail : Nat) : Option FlowNotice :=
  if flag then some (k, BitVec.ofNat 16 detail) else none

/-- A full allowance: burst x 1000 thousandths of a byte (R85). -/
def fullTokens (c : FlowConfig) : Nat := c.burst * 1000

/-- The flow goes on, on time, from a frame end at `t` (R69 to R71). -/
def arriveAt (t : Instant) (f : FlowEntry) : FlowEntry :=
  { f with state := .onTime, missCount := 0, deadline := some (t + f.cfg.period + f.cfg.tolerance),
           lastArrival := some t }

/-- Whether a frame end at `t` is early against the last arrival (R70). -/
def isEarly (t : Instant) (f : FlowEntry) : Bool :=
  match f.lastArrival with
  | some a => before t (a + f.cfg.period - f.cfg.tolerance)
  | none => false

/-- Cadence at a frame end at local time `t` (R69, R70, R71). -/
def observe (t : Instant) (f : FlowEntry) : FlowEntry × Option FlowNotice :=
  match f.state with
  | .unused => (f, none)
  | .armed => (arriveAt t f, none)
  | .onTime => (arriveAt t { f with early := if isEarly t f then f.early + 1 else f.early }, none)
  | .late => (arriveAt t f, flagged f.cfg.notifyRecovered .flowRecovered f.missCount)
  | .lost => (arriveAt t f, flagged f.cfg.notifyRecovered .flowRecovered f.missCount)

/-- The allowance brought up to `t` (R87). -/
def refill (t : Instant) (f : FlowEntry) : FlowEntry :=
  { f with tokens := min (f.tokens + (t - f.lastRefill).toNat * f.cfg.rate) (fullTokens f.cfg), lastRefill := t }

/-- Policing a frame of `len` bytes ending at `t`, after cadence observation (R86 to R89). -/
def police (t : Instant) (len : Nat) (f : FlowEntry) : FlowEntry × Verdict :=
  if f.cfg.rate = 0 ∨ f.state = .unused then (f, .pass)
  else
    let g := refill t f
    if len * 1000 ≤ g.tokens then
      ({ g with tokens := g.tokens - len * 1000, passed := g.passed + 1 }, .pass)
    else
      match g.cfg.overAction with
      | .demote => ({ g with passed := g.passed + 1, policed := g.policed + 1 }, .demote)
      | .drop => ({ g with policed := g.policed + 1 }, .drop)

/-- The frame-end hand-off: cadence for every frame, policing for FORWARD entries (R68). -/
def handOff (t : Instant) (len : Nat) (forward : Bool) (f : FlowEntry) : FlowEntry × Verdict × Option FlowNotice :=
  let (g, n) := observe t f
  if forward then
    let (h, v) := police t len g
    (h, v, n)
  else (g, .pass, n)

/-- A deadline expiry of the deadline `d` (R73, R74); only ON_TIME and LATE have one (R72). -/
def expire (d : Instant) (f : FlowEntry) : FlowEntry × Option FlowNotice :=
  match f.state with
  | .onTime =>
    if f.cfg.lossLimit = 1 then
      ({ f with state := .lost, missCount := 1, lateEvents := f.lateEvents + 1, deadline := none },
        flagged f.cfg.notifyLost .flowLost 1)
    else
      ({ f with state := .late, missCount := 1, lateEvents := f.lateEvents + 1,
                deadline := some (d + f.cfg.period) },
        flagged f.cfg.notifyLate .flowLate 1)
  | .late =>
    if f.missCount + 1 = f.cfg.lossLimit then
      ({ f with state := .lost, missCount := f.missCount + 1, deadline := none },
        flagged f.cfg.notifyLost .flowLost (f.missCount + 1))
    else ({ f with missCount := f.missCount + 1, deadline := some (d + f.cfg.period) }, none)
  | .unused => (f, none)
  | .armed => (f, none)
  | .lost => (f, none)

/-- The fill-up's instant: 2^30 µs after the last refill (R91). -/
def fillUpAt (f : FlowEntry) : Instant := f.lastRefill + Config.fillUpInterval

/-- Whether a flow has fill-ups at all (R91). -/
def hasFillUp (f : FlowEntry) : Bool := f.state != .unused && f.cfg.rate != 0

/-- The fill-up (R91). -/
def fillUpFlow (f : FlowEntry) : FlowEntry := { f with tokens := fullTokens f.cfg, lastRefill := fillUpAt f }

/-- A flow written ARMED at local time `t` (R78, R93). -/
def armedFlow (c : FlowConfig) (t : Instant) : FlowEntry :=
  { cfg := c, state := .armed, missCount := 0, deadline := none, lastArrival := none, tokens := fullTokens c,
    lastRefill := t, passed := 0, policed := 0, early := 0, lateEvents := 0 }

/-- TRAFFIC reset on one flow at local time `t` (R84, R93). -/
def rearm (t : Instant) (f : FlowEntry) : FlowEntry :=
  if f.state = .unused then f
  else { f with state := .armed, missCount := 0, deadline := none, lastArrival := none,
                tokens := fullTokens f.cfg, lastRefill := t }

/-- The four counters of a flow at 0 (R79). -/
def zeroFlowCounters (f : FlowEntry) : FlowEntry := { f with passed := 0, policed := 0, early := 0, lateEvents := 0 }

end Sys2Proof.Machine
end

