-- ==== Sys2Proof/Machine/Timers.lean ====
section
/-! DEFINITION. The timers of the Flow Supervisor, the Bank Controller and the Management Agent (R27, R34, R37, R72,
R91, R146, R152). A timed happening whose instant has not passed is not taken: nothing changes (log 4). -/

namespace Sys2Proof.Machine

/-! ### Flows -/

/-- A flow that has deadlines to expire: ON_TIME or LATE (R72). -/
def hasDeadline (f : FlowEntry) : Bool := f.state == .onTime || f.state == .late

/-- The deadline of a flow that has passed, if there is one (R72). -/
def State.expiredDeadline (s : State) (i : FlowIx) : Option Instant :=
  match (s.flow i).deadline with
  | some d => if hasDeadline (s.flow i) && s.passed d then some d else none
  | none => none

/-- A deadline expiry of one flow with its notice, timestamped with the expired deadline (R73 to R75). -/
def State.expireFlow (s : State) (i : FlowIx) (d : Instant) : State :=
  let (f, n) := expire d (s.flow i)
  let t := s.setFlow i f
  match n with
  | some (k, detail) => t.raiseAt k (s.toCell d) (byteOf i) detail
  | none => t

/-- DEADLINE_EXPIRY (R72). -/
def execDeadlineExpiry (i : FlowIx) (s : State) : Host.Outcome State Fault Refusal :=
  .next (match s.expiredDeadline i with
    | some d => if s.running then s.expireFlow i d else s
    | none => s)

/-- A fill-up of a flow is due (R91). -/
def State.fillUpDue (s : State) (i : FlowIx) : Bool := hasFillUp (s.flow i) && s.passed (fillUpAt (s.flow i))

/-- FILL_UP (R91). -/
def execFillUp (i : FlowIx) (s : State) : Host.Outcome State Fault Refusal :=
  .next (if s.running && s.fillUpDue i then s.setFlow i (fillUpFlow (s.flow i)) else s)

/-! ### The Bank Controller -/

/-- LEASE_EXPIRY (R27). -/
def execLeaseExpiry (s : State) : Host.Outcome State Fault Refusal :=
  .next (match s.ctrl with
    | .editing h _ e =>
      if s.running && s.passed e then (s.raise .leaseExpired (byteOf h.port) h.handle).startMirror else s
    | _ => s)

/-- ACTIVATION (R34). -/
def execActivation (s : State) : Host.Outcome State Fault Refusal :=
  .next (if s.running && s.activationDue then s.swap else s)

/-- MIRROR_STEP (R37). -/
def execMirrorStep (s : State) : Host.Outcome State Fault Refusal :=
  .next (match s.ctrl with
    | .mirroring k e => if s.running && s.passed (mirrorAt e k) then s.mirrorCopy k e else s
    | _ => s)

/-! ### The Management Agent -/

/-- The busy interval has ended (R146). -/
def State.busyOver (s : State) : Bool :=
  match s.agent.busyUntil with
  | some e => s.passed e
  | none => false

/-- AGENT_READY (R146). -/
def execAgentReady (s : State) : Host.Outcome State Fault Refusal :=
  .next (if s.running && s.busyOver then { s with agent := { s.agent with busyUntil := none } } else s)

/-- A requester's entry is protected: its key is the holder's (R150). -/
def State.protectedKey (s : State) (k : Key) : Bool := holderOf s.ctrl == some k

/-- An entry's 900 s are over and it is not protected (R152). -/
def State.entryExpired (s : State) (e : Requester) : Bool :=
  !s.protectedKey e.key && s.passed (e.lastUsed + Config.entryLife)

/-- REQUESTER_ENTRY_EXPIRY (R152). -/
def execRequesterEntryExpiry (k : Key) (s : State) : Host.Outcome State Fault Refusal :=
  .next (if s.running then
    { s with agent := { s.agent with
      table := s.agent.table.filter fun e => !(e.key == k && s.entryExpired e) } } else s)

end Sys2Proof.Machine
end

