-- ==== Sys2Proof/Machine/Requests.lean ====
section
/-! DEFINITION. The Management Agent's handling of a request: which row a taking is, the requester table, the
reply, and carrying a command out (R145 to R156). -/

namespace Sys2Proof.Machine

/-! ### Which taking is due (R146 to R149) -/

/-- The request at the head of the request queue, as the Agent reads it (R147). -/
def State.headRequest (s : State) : Option Taken :=
  match s.agent.queue with
  | r :: _ => some (takenOf r (s.buf r.buf).bytes)
  | [] => none

/-- The entry of a key in the requester table (R148). -/
def State.requester (s : State) (k : Key) : Option Requester := s.agent.table.find? (fun e => e.key == k)

/-- The row of a request that is carried out, by its command code; the group of READ_COUNTERS, the mode of COMMIT
and the kind of RESET choose among rows of one code, with the values that name no row given to the first
(R149, R200, log 8). -/
def commandRow (code : Byte) (args : List Byte) : Instr :=
  match code.toNat with
  | 0x01 => .identify
  | 0x02 =>
    match (byteAt args 0).toNat with
    | 0x10 => .readCountersPool
    | 0x20 => .readCountersAgent
    | 0x30 => .readCountersRules
    | _ => .readCountersPort
  | 0x03 => .adjustTime
  | 0x10 => .openEdit
  | 0x11 => .writeRule
  | 0x12 => .clearRules
  | 0x13 => .writeMiss
  | 0x14 => .readRules
  | 0x15 => if byteAt args 0 = 1 then .commitAt else .commitNow
  | 0x16 => .abandon
  | 0x20 => .writeFlow
  | 0x21 => .readFlow
  | 0x30 => .setPort
  | 0x31 => .readPort
  | 0x32 => .releasePort
  | 0x40 => .setNotices
  | 0x7F => if byteAt args 0 = 1 then .resetFull else .resetTraffic
  | _ => .unknownCommand

/-- The row of a taking of request `r`: dropped as malformed, replayed, or carried out (R147, R148). -/
def State.takingRow (s : State) (r : Taken) : Instr :=
  if r.payload.length < 3 then .malformed
  else if (s.requester r.key).any (fun e => e.seq == r.seq) then .replay
  else commandRow r.code r.args

/-- The taking that is due: the Agent is READY and the request queue non-empty (R146). -/
def State.takingDue (s : State) : Option Instr :=
  if s.running && s.agent.busyUntil.isNone then s.headRequest.map s.takingRow else none

/-- A taking of row `row`, carried out by `act` when it is the one due; otherwise the happening is not taken and
nothing changes (log 4). -/
def State.taking (s : State) (row : Instr) (act : Taken → State → State) : State :=
  match s.headRequest with
  | some r => if s.takingDue = some row then act r s else s
  | none => s

/-! ### The steps of a taking -/

/-- The head entry leaves the queue, the busy interval starts, and REQUESTS_TAKEN advances (R146, R147). -/
def State.beginTaking (s : State) : State :=
  { s with agent := { s.agent with
      queue := s.agent.queue.tail
      busyUntil := some (s.localTime + Config.busyInterval)
      counters := { s.agent.counters with requestsTaken := s.agent.counters.requestsTaken + 1 } } }

/-- The table without its least recently used unprotected entry (R151). -/
def evictOne (isProtected : Key → Bool) (t : List Requester) : List Requester := t.eraseP fun e => !isProtected e.key

/-- The requester of key `k` at the most recent end of the table, its entry kept or a new one made, used now
(R148, R151). -/
def State.placeRequester (s : State) (k : Key) (seq : Half) : State :=
  let table := s.agent.table
  let table' :=
    match s.requester k with
    | some e => table.filter (fun e => e.key != k) ++ [{ e with lastUsed := s.localTime }]
    | none =>
      (if table.length < Config.requesterPlaces then table else evictOne s.protectedKey table)
        ++ [{ key := k, seq := seq, reply := [], lastUsed := s.localTime }]
  { s with agent := { s.agent with table := table' } }

/-- The reply is cached in the requester's entry, or in a new entry when a FULL reset has emptied the table
(R153, R161). -/
def State.storeReply (s : State) (k : Key) (seq : Half) (reply : List Byte) : State :=
  let table := s.agent.table
  let table' :=
    if table.any (fun e => e.key == k) then
      table.map fun e => if e.key = k then { e with seq := seq, reply := reply } else e
    else table ++ [{ key := k, seq := seq, reply := reply, lastUsed := s.localTime }]
  { s with agent := { s.agent with table := table' } }

/-- REPLY_DROPPED advances (R154). -/
def State.countReplyDropped (s : State) : State :=
  { s with agent := { s.agent with counters :=
      { s.agent.counters with replyDropped := s.agent.counters.replyDropped + 1 } } }

/-- The reply frame built around a payload (R153). -/
def replyFrame (r : Taken) (payload : List Byte) : List Byte :=
  frameBytes (builtHeader .reply r.prio r.tag payload) payload

/-- The reply is sent and the request's buffer released, the last act of the taking (R154). -/
def State.sendReply (s : State) (r : Taken) (payload : List Byte) : State :=
  match s.alloc Config.agentNeed with
  | none => (s.countReplyDropped.dropRef r.buf).settle s
  | some (b, t) =>
    let u := t.writeFrame b (replyFrame r payload)
    ((if (u.port r.port).canAccept then
        u.enqueue r.port { buf := b, prio := r.prio, time := u.localTime, origin := .reply }
      else u.countReplyDropped.dropRef b).dropRef r.buf).settle t

/-- What a command leaves: the state, the status, and the results, empty unless the status is OK (R153). -/
structure Answer where
  state : State
  status : Status
  results : List Byte

/-- A command accepted and carried out. -/
def State.accept (s : State) (results : List Byte) : Answer := { state := s, status := .ok, results := results }

/-- A command refused, which changes nothing at its owner (R156). -/
def State.refuse (s : State) (st : Status) : Answer := { state := s, status := st, results := [] }

/-- A command of one argument length: BAD_LENGTH for any other, else the command's own checks (R149, R200). -/
def checkLength (n : Nat) (cmd : Taken → State → Answer) (r : Taken) (s : State) : Answer :=
  if r.args.length = n then cmd r s else s.refuse .badLength

/-- The command is carried out, its reply cached, and the reply sent (R148 to R154). -/
def State.carryOut (cmd : Taken → State → Answer) (r : Taken) (s : State) : State :=
  let a := cmd r (s.beginTaking.placeRequester r.key r.seq)
  let payload := replyPayload r a.status a.results
  (a.state.storeReply r.key r.seq payload).sendReply r payload

/-! ### Takings that carry nothing out -/

/-- A payload under 3 bytes: dropped (R147). -/
def State.takeMalformed (r : Taken) (s : State) : State :=
  let t := s.beginTaking
  (({ t with agent := { t.agent with counters :=
    { t.agent.counters with malformed := t.agent.counters.malformed + 1 } } }).dropRef r.buf).settle s

/-- A retry: the cached reply is sent again (R148, R155). -/
def State.takeReplay (r : Taken) (s : State) : State :=
  match s.requester r.key with
  | some e =>
    let t := s.beginTaking.placeRequester r.key r.seq
    ({ t with agent := { t.agent with counters :=
      { t.agent.counters with replay := t.agent.counters.replay + 1 } } }).sendReply r e.reply
  | none => s

/-- MALFORMED (R147). -/
def execMalformed (s : State) : Host.Outcome State Fault Refusal := .next (s.taking .malformed State.takeMalformed)

/-- REPLAY (R155). -/
def execReplay (s : State) : Host.Outcome State Fault Refusal := .next (s.taking .replay State.takeReplay)

/-- UNKNOWN_COMMAND (R149). -/
def execUnknownCommand (s : State) : Host.Outcome State Fault Refusal :=
  .next (s.taking .unknownCommand (State.carryOut fun _ t => t.refuse .unknownCommand))

end Sys2Proof.Machine
end

