-- ==== Sys2Proof/Machine/Reading.lean ====
section
/-! DEFINITION. The commands that identify, that read counters, and that adjust the time (R163 to R166). -/

namespace Sys2Proof.Machine

/-! ### IDENTIFY (R163) -/

/-- The results of IDENTIFY (R163, R200). -/
def State.identity (s : State) : List Byte :=
  be16 Config.vendorCode ++ be16 Config.partCode ++ [Config.revision, 0#4 ++ s.straps.station, strapByte s.straps]
    ++ be32 s.cellTime ++ be32 s.localTime

/-- IDENTIFY carried out. -/
def cmdIdentify (_r : Taken) (s : State) : Answer := s.accept s.identity

/-- IDENTIFY (R163). -/
def execIdentify (s : State) : Host.Outcome State Fault Refusal :=
  .next (s.taking .identify (State.carryOut (checkLength 0 cmdIdentify)))

/-! ### READ_COUNTERS (R165, R166) -/

/-- The clear flag of READ_COUNTERS and READ_FLOW: 0 keep, 1 clear, anything else out of range (R200). -/
def clearArg (b : Byte) : Option Bool := if b = 0 then some false else if b = 1 then some true else none

/-- The nineteen counters of a port in the order of R166. -/
def portCounterList (c : PortCounters) : List Counter :=
  [c.rxGood, c.rxHeaderCheck, c.rxFrameCheck, c.rxLength, c.rxRunt, c.rxCode, c.hopExpired, c.missDrop, c.ruleDrop,
    c.policedDrop, c.noRoute, c.poolEmpty, c.mgmtRefused, c.quarantineDiscard, c.txFrames, c.queueFull, c.aged,
    c.flushed, c.aborted]

/-- Counters as they travel, 4 bytes each (R200). -/
def counterBytes (cs : List Counter) : List Byte := cs.flatMap be32

/-- The first and count bytes, reserved in the groups other than RULES, are 0 (R165). -/
def noRange (args : List Byte) : Bool := byteAt args 2 == 0 && byteAt args 3 == 0

/-- READ_COUNTERS of group PORT n, and of every group value that names no group, which is refused (R165, R166). -/
def cmdReadCountersPort (r : Taken) (s : State) : Answer :=
  match portArg (byteAt r.args 0), clearArg (byteAt r.args 1) with
  | some p, some clear =>
    if noRange r.args then
      (if clear then s.setPort p { s.port p with counters := zeroPortCounters } else s).accept
        (counterBytes (portCounterList (s.port p).counters))
    else s.refuse .badArgument
  | _, _ => s.refuse .badArgument

/-- READ_COUNTERS_PORT (R166). -/
def execReadCountersPort (s : State) : Host.Outcome State Fault Refusal :=
  .next (s.taking .readCountersPort (State.carryOut (checkLength 4 cmdReadCountersPort)))

/-- The results of group POOL (R106, R200). -/
def State.poolResults (s : State) : List Byte :=
  [byteOf s.freeCount, byteOf s.pool.minFree, holdCode s.pool.hold] ++ be32 s.pool.holdEntries

/-- The clearing of group POOL: minimum free to the free count, HOLD_ENTRIES to 0 (R106). -/
def State.clearPool (s : State) : State := { s with pool := { s.pool with minFree := s.freeCount, holdEntries := 0 } }

/-- READ_COUNTERS of group POOL (R106). -/
def cmdReadCountersPool (r : Taken) (s : State) : Answer :=
  match clearArg (byteAt r.args 1) with
  | some clear =>
    if noRange r.args then (if clear then s.clearPool else s).accept s.poolResults else s.refuse .badArgument
  | none => s.refuse .badArgument

/-- READ_COUNTERS_POOL (R106). -/
def execReadCountersPool (s : State) : Host.Outcome State Fault Refusal :=
  .next (s.taking .readCountersPool (State.carryOut (checkLength 4 cmdReadCountersPool)))

/-- The Agent's counters in the order of R158. -/
def agentCounterList (c : AgentCounters) : List Counter :=
  [c.requestsTaken, c.replay, c.overflow, c.malformed, c.replyDropped]

/-- READ_COUNTERS of group AGENT (R158). -/
def cmdReadCountersAgent (r : Taken) (s : State) : Answer :=
  match clearArg (byteAt r.args 1) with
  | some clear =>
    if noRange r.args then
      (if clear then { s with agent := { s.agent with counters := zeroAgentCounters } } else s).accept
        (counterBytes (agentCounterList s.agent.counters))
    else s.refuse .badArgument
  | none => s.refuse .badArgument

/-- READ_COUNTERS_AGENT (R158). -/
def execReadCountersAgent (s : State) : Host.Outcome State Fault Refusal :=
  .next (s.taking .readCountersAgent (State.carryOut (checkLength 4 cmdReadCountersAgent)))

/-- The positions `first` to `first + count - 1` that exist. -/
def positions (first count : Byte) : List RulePos := (List.finRange 64).filter fun i => inRange first count i.val

/-- The hit counters of positions `first` to `first + count - 1` set to 0 (R19). -/
def State.clearHits (s : State) (first count : Byte) : State :=
  { s with hits := Vector.ofFn fun i : RulePos => if inRange first count i.val then 0 else s.hits.get i }

/-- READ_COUNTERS of group RULES (R19, R165). -/
def cmdReadCountersRules (r : Taken) (s : State) : Answer :=
  let first := byteAt r.args 2
  let count := byteAt r.args 3
  match clearArg (byteAt r.args 1) with
  | some clear =>
    if rangeOk first count 16 then
      (if clear then s.clearHits first count else s).accept
        (counterBytes ((positions first count).map fun i => s.hits.get i))
    else s.refuse .badArgument
  | none => s.refuse .badArgument

/-- READ_COUNTERS_RULES (R19). -/
def execReadCountersRules (s : State) : Host.Outcome State Fault Refusal :=
  .next (s.taking .readCountersRules (State.carryOut (checkLength 4 cmdReadCountersRules)))

/-! ### ADJUST_TIME (R67, R164) -/

/-- The offset stepped, and the swap taken within the command when the activation instant has then passed
(R35, R67). DESIGN CHOICE (log 30): an ADJUST_TIME taken at the very instant T, before the activation happening, finds
T reached, also with a step of 0. R35's first bullet then has the swap within the command, while R35 and R67 say that
a step of 0 changes nothing and that T cannot have passed in SCHEDULED. The model swaps. -/
def State.adjustOffset (s : State) (step : BitVec 32) : State :=
  let t := { s with offset := s.offset + step }
  if t.activationDue then t.swap else t

/-- ADJUST_TIME carried out (R164). -/
def cmdAdjustTime (r : Taken) (s : State) : Answer :=
  let step := wordAt r.args 0
  if step = 0x80000000 then s.refuse .badArgument
  else
    let t := s.adjustOffset step
    t.accept (be32 t.cellTime ++ be32 t.offset)

/-- ADJUST_TIME (R164). -/
def execAdjustTime (s : State) : Host.Outcome State Fault Refusal :=
  .next (s.taking .adjustTime (State.carryOut (checkLength 4 cmdAdjustTime)))

end Sys2Proof.Machine
end

