-- ==== Sys2Proof/Machine/Configuring.lean ====
section
/-! DEFINITION. The flow, port, notice and reset commands (R77 to R79, R138, R139, R175 to R185). -/

namespace Sys2Proof.Machine

/-! ### WRITE_FLOW and READ_FLOW -/

/-- WRITE_FLOW carried out (R77, R78, R93). -/
def cmdWriteFlow (r : Taken) (s : State) : Answer :=
  let m := flowImageOf (r.args.drop 2)
  let initial := byteAt r.args 1
  match flowArg (byteAt r.args 0) with
  | some i =>
    if initial = 0 then (s.setFlow i (clearedFlow s.localTime)).accept [flowStateCode .unused]
    else if initial = 1 ∧ flowImageOk m then
      (s.setFlow i (armedFlow (flowConfigOf m) s.localTime)).accept [flowStateCode .armed]
    else s.refuse .badArgument
  | none => s.refuse .badArgument

/-- WRITE_FLOW (R78). -/
def execWriteFlow (s : State) : Host.Outcome State Fault Refusal :=
  .next (s.taking .writeFlow (State.carryOut (checkLength 17 cmdWriteFlow)))

/-- An optional instant as it travels: in cell time, or 0 when it is absent (R79, R200). -/
def State.cellBytes (s : State) (t : Option Instant) : List Byte :=
  match t with
  | some t => be32 (s.toCell t)
  | none => be32 0

/-- The results of READ_FLOW (R79, R200). -/
def State.flowResults (s : State) (f : FlowEntry) : List Byte :=
  flowImageBytes (flowImage f.cfg) ++ [flowStateCode f.state, byteOf f.missCount, flowPresenceByte f]
    ++ s.cellBytes f.deadline ++ s.cellBytes f.lastArrival ++ be16 (BitVec.ofNat 16 (f.tokens / 1000))
    ++ counterBytes [f.passed, f.policed, f.early, f.lateEvents]

/-- READ_FLOW carried out (R79, R176). -/
def cmdReadFlow (r : Taken) (s : State) : Answer :=
  match flowArg (byteAt r.args 0), clearArg (byteAt r.args 1) with
  | some i, some clear =>
    (if clear then s.setFlow i (zeroFlowCounters (s.flow i)) else s).accept (s.flowResults (s.flow i))
  | _, _ => s.refuse .badArgument

/-- READ_FLOW (R79). -/
def execReadFlow (s : State) : Host.Outcome State Fault Refusal :=
  .next (s.taking .readFlow (State.carryOut (checkLength 2 cmdReadFlow)))

/-! ### SET_PORT, READ_PORT and RELEASE_PORT -/

/-- The quarantine time left, in whole milliseconds rounded up, 0 in the other states (R139, R200). -/
def State.quarantineLeft (s : State) (x : PortRec) : Nat :=
  match x.link with
  | .quarantine e => s.msLeft e
  | _ => 0

/-- The results of the port commands (R139, R200). -/
def State.portResults (s : State) (p : Port) : List Byte :=
  let x := s.port p
  [byteOf p] ++ portImageBytes (portImage x.cfg) ++ [linkCode x.link] ++ be16 (BitVec.ofNat 16 x.score)
    ++ [portFlagsByte x, byteOf x.queue.length] ++ be16 (BitVec.ofNat 16 (s.quarantineLeft x))

/-- The lockout checks of SET_PORT on port `p` by a request from port `own` (R178). -/
def State.lockedOut (s : State) (own p : Port) (c : PortConfig) : Bool :=
  !(List.finRange 4).any (fun q =>
      let d := if q = p then c else (s.port q).cfg
      d.enable && d.accepts)
    || (own == p && !(c.enable && c.accepts))

/-- A change of the enable setting moves the port's state (R124, R138). -/
def State.applyEnable (s : State) (p : Port) (old new : Bool) : State :=
  if new && !old then s.enablePort p else if !new && old then s.disablePort p else s

/-- A change of the leak interval reschedules a present next leak (R131, R138). -/
def State.applyLeak (s : State) (p : Port) (old : PortConfig) : State :=
  let x := s.port p
  if x.cfg.leakInterval ≠ old.leakInterval then
    s.setPort p { x with nextLeak := x.nextLeak.map fun _ => s.leakFromNow x }
  else s

/-- An accepted SET_PORT, in the order of R138. -/
def State.applyConfig (s : State) (p : Port) (c : PortConfig) : State :=
  let old := (s.port p).cfg
  let t := s.setPort p { s.port p with cfg := c }
  let t := (t.applyEnable p old.enable c.enable).applyLeak p old
  ((t.warnedTest p).quarantineTest p).settle s

/-- SET_PORT carried out (R177 to R179). -/
def cmdSetPort (r : Taken) (s : State) : Answer :=
  let m := portImageOf (r.args.drop 1)
  match portArg (byteAt r.args 0) with
  | some p =>
    if portImageOk m then
      if s.lockedOut r.port p (portConfigOf m) then s.refuse .lockout
      else
        let t := s.applyConfig p (portConfigOf m)
        t.accept (t.portResults p)
    else s.refuse .badArgument
  | none => s.refuse .badArgument

/-- SET_PORT (R177). -/
def execSetPort (s : State) : Host.Outcome State Fault Refusal :=
  .next (s.taking .setPort (State.carryOut (checkLength 11 cmdSetPort)))

/-- READ_PORT carried out (R180). -/
def cmdReadPort (r : Taken) (s : State) : Answer :=
  match portArg (byteAt r.args 0) with
  | some p => s.accept (s.portResults p)
  | none => s.refuse .badArgument

/-- READ_PORT (R180). -/
def execReadPort (s : State) : Host.Outcome State Fault Refusal :=
  .next (s.taking .readPort (State.carryOut (checkLength 1 cmdReadPort)))

/-- RELEASE_PORT carried out (R135, R181). -/
def cmdReleasePort (r : Taken) (s : State) : Answer :=
  match portArg (byteAt r.args 0) with
  | some p =>
    if (s.port p).isQuarantine then
      let t := (s.endQuarantine p).settle s
      t.accept (t.portResults p)
    else s.refuse .badState
  | none => s.refuse .badArgument

/-- RELEASE_PORT (R181). -/
def execReleasePort (s : State) : Host.Outcome State Fault Refusal :=
  .next (s.taking .releasePort (State.carryOut (checkLength 1 cmdReleasePort)))

/-! ### SET_NOTICES (R182) -/

/-- The four settings as they travel (R200). -/
def noticeConfigBytes (c : NoticeConfig) : List Byte :=
  [byteOf c.dest] ++ be24 c.tag ++ [0#5 ++ c.prio] ++ be16 (0#4 ++ c.mask)

/-- SET_NOTICES carried out (R182, R193). -/
def cmdSetNotices (r : Taken) (s : State) : Answer :=
  let prio := byteAt r.args 4
  let mask := halfAt r.args 5
  match portArg (byteAt r.args 0) with
  | some p =>
    if prio.toNat ≤ 7 ∧ mask.extractLsb' 12 4 = 0 then
      let c : NoticeConfig :=
        { dest := p, tag := tagAt r.args 1, prio := prio.extractLsb' 0 3, mask := mask.extractLsb' 0 12 }
      { s with notices := { s.notices with cfg := c } }.accept (noticeConfigBytes c)
    else s.refuse .badArgument
  | none => s.refuse .badArgument

/-- SET_NOTICES (R182). -/
def execSetNotices (s : State) : Host.Outcome State Fault Refusal :=
  .next (s.taking .setNotices (State.carryOut (checkLength 7 cmdSetNotices)))

/-! ### RESET (R183 to R185) -/

/-- Every queue flushed and every transmission aborted, the hold state decided once (R116). -/
def State.flushAll (s : State) : State := ((List.finRange 4).foldl State.flushPort s).settle s

/-- The TRAFFIC reset (R42, R84, R116, R144, R160, R184). -/
def State.trafficReset (s : State) : State :=
  let t := s.flushAll
  { t with flows := Vector.ofFn fun i : FlowIx => rearm s.localTime (s.flow i) }

/-- RESET TRAFFIC, and every kind that names no reset, which is refused (R183, R184). -/
def cmdResetTraffic (r : Taken) (s : State) : Answer :=
  if byteAt r.args 0 = 0 then s.trafficReset.accept [0] else s.refuse .badArgument

/-- RESET_TRAFFIC (R184). -/
def execResetTraffic (s : State) : Host.Outcome State Fault Refusal :=
  .next (s.taking .resetTraffic (State.carryOut (checkLength 1 cmdResetTraffic)))

/-- The state a port's FULL reset leaves it in (R143). -/
def resetLink (x : PortRec) : LinkState :=
  match x.link with
  | .quarantine _ => .training 0
  | .disabled => if x.signal then .training 0 else .down
  | .training n => .training n
  | .down => .down
  | .up run held => .up run held

/-- A reception through a FULL reset: it loses its buffer, and is stripped from this instant on, when a frame end can
still come together with the reset (R60, R117, R143, R185, log 29); but it ends with a quarantine (DEDUCED, log 10). -/
def resetReception (x : PortRec) : Reception :=
  match x.link, x.rx with
  | .quarantine _, _ => .idle
  | _, .frame (some _) bytes => .stripped bytes
  | _, rx => rx

/-- A port through a FULL reset; a pool that was HOLDING sends RESUME on it when it is UP (R117, R143). -/
def resetPort (st : Straps) (holding : Bool) (p : Port) (x : PortRec) : PortRec :=
  { signal := x.signal
    link := resetLink x
    score := 0, warned := false, nextLeak := none
    rx := resetReception x
    cfg := defaultPortConfig st p, counters := zeroPortCounters
    queue := [], tx := none
    ctl := if holding && x.isUp then x.ctl ++ [.resume] else x.ctl }

/-- The pool is HOLDING. -/
def HoldState.isHolding : HoldState → Bool
  | .holding _ => true
  | .normal => false

/-- The pool through a FULL reset: every buffer freed but the RESET request's own (R117, R185). -/
def State.resetPool (s : State) (own : BufId) : Pool :=
  { bufs := Vector.ofFn fun b : BufId => if b = own then s.buf b else freeBuffer
    minFree := 95, hold := .normal, holdEntries := 0 }

/-- The Notice Unit through a FULL reset: emptied, its numbers going on, one RESTARTED record made (R197). -/
def State.resetNotices (s : State) : NoticeUnit :=
  pushNotice { queue := [], nextSeq := s.notices.nextSeq, lost := 0, cfg := defaultNoticeConfig, waiting := none }
    .restarted s.cellTime 1 (BitVec.ofNat 16 s.notices.queue.length)

/-- The FULL reset, within the taking of the request in buffer `own` (R41, R83, R117, R143, R161, R185, R197;
a reception in progress: log 10, log 29). -/
def State.fullReset (s : State) (own : BufId) : State :=
  { s with
    ports := Vector.ofFn fun p : Port => resetPort s.straps s.pool.hold.isHolding p (s.port p)
    pool := s.resetPool own
    banks := Vector.replicate 2 (clearedBank s.straps), active := 0, hits := Vector.replicate 64 0, ctrl := .free
    flows := Vector.replicate 128 (clearedFlow s.localTime)
    agent := { queue := [], busyUntil := s.agent.busyUntil, table := [], counters := zeroAgentCounters }
    notices := s.resetNotices }

/-- RESET FULL carried out (R183, R185). -/
def cmdResetFull (r : Taken) (s : State) : Answer :=
  if byteAt r.args 0 = 1 then (s.fullReset r.buf).accept [1] else s.refuse .badArgument

/-- RESET_FULL (R185). -/
def execResetFull (s : State) : Host.Outcome State Fault Refusal :=
  .next (s.taking .resetFull (State.carryOut (checkLength 1 cmdResetFull)))

end Sys2Proof.Machine
end

