-- ==== Sys2Proof/Machine/Editing.lean ====
section
/-! DEFINITION. The commands of an edit session (R25 to R36, R167 to R174). -/

namespace Sys2Proof.Machine

/-- An edit-session command accepted, with its three results (R167). -/
def State.acceptEdit (s : State) : Answer := s.accept s.leaseResults

/-- The lease set for requester `k` with a duration in seconds, reckoned from now (R25). -/
def State.setLease (s : State) (k : Key) (seconds : Nat) : State :=
  { s with ctrl := .editing k seconds (s.after (leaseMicros seconds)) }

/-- OPEN_EDIT carried out (R25). -/
def cmdOpenEdit (r : Taken) (s : State) : Answer :=
  let d := (halfAt r.args 0).toNat
  let grant := if 1 ≤ d ∧ d ≤ 600 then (s.setLease r.key d).acceptEdit else s.refuse .badArgument
  match s.ctrl with
  | .free => grant
  | .editing h _ _ => if h = r.key then grant else s.refuse .notHolder
  | .scheduled h _ => if h = r.key then s.refuse .pending else s.refuse .notHolder
  | .mirroring _ _ => s.refuse .mirroring

/-- OPEN_EDIT (R25). -/
def execOpenEdit (s : State) : Host.Outcome State Fault Refusal :=
  .next (s.taking .openEdit (State.carryOut (checkLength 2 cmdOpenEdit)))

/-- A command of the holder: the state and holder check of R28 first, then its own checks and effect. -/
def gated (isAbandon : Bool) (cmd : Taken → State → Answer) (r : Taken) (s : State) : Answer :=
  match editGate s.ctrl r.key isAbandon with
  | some st => s.refuse st
  | none => cmd r s

/-- A write to the shadow bank carried out, with the renewal it makes (R26, R29). -/
def State.acceptWrite (s : State) (k : Key) : Answer := (s.renew k).acceptEdit

/-- WRITE_RULE accepted for checking (R15 to R17, R169). -/
def cmdWriteRule (r : Taken) (s : State) : Answer :=
  let m := ruleImageOf (r.args.drop 1)
  match posArg (byteAt r.args 0) with
  | some i =>
    if !m.valid || ruleImageOk m then (s.setShadowEntry i (ruleOfImage m)).acceptWrite r.key
    else s.refuse .badArgument
  | none => s.refuse .badArgument

/-- WRITE_RULE (R169). -/
def execWriteRule (s : State) : Host.Outcome State Fault Refusal :=
  .next (s.taking .writeRule (State.carryOut (checkLength 19 (gated false cmdWriteRule))))

/-- CLEAR_RULES accepted for checking (R170). -/
def cmdClearRules (r : Taken) (s : State) : Answer :=
  let first := byteAt r.args 0
  let count := byteAt r.args 1
  if rangeOk first count 64 then (s.clearShadow first.toNat count.toNat).acceptWrite r.key
  else s.refuse .badArgument

/-- CLEAR_RULES (R170). -/
def execClearRules (s : State) : Host.Outcome State Fault Refusal :=
  .next (s.taking .clearRules (State.carryOut (checkLength 2 (gated false cmdClearRules))))

/-- The miss action an argument names (R200). -/
def missArg (b : Byte) : Option MissAction := if b = 0 then some .drop else if b = 1 then some .flood else none

/-- WRITE_MISS accepted for checking (R171). -/
def cmdWriteMiss (r : Taken) (s : State) : Answer :=
  match missArg (byteAt r.args 0) with
  | some m => (s.setShadow { s.shadowBank with miss := m }).acceptWrite r.key
  | none => s.refuse .badArgument

/-- WRITE_MISS (R171). -/
def execWriteMiss (s : State) : Host.Outcome State Fault Refusal :=
  .next (s.taking .writeMiss (State.carryOut (checkLength 1 (gated false cmdWriteMiss))))

/-- The Bank Controller is MIRRORING. -/
def isMirroring : Controller → Bool
  | .mirroring _ _ => true
  | _ => false

/-- The results of a read of the ACTIVE bank: each entry with its hit counter (R172, R200). -/
def State.activeRead (s : State) (first count : Byte) : List Byte :=
  [controllerCode s.ctrl, byteOf s.active, 0, missCode s.activeBank.miss] ++
    (positions first count).flatMap fun i => ruleEntryBytes (s.activeBank.entries.get i) ++ be32 (s.hits.get i)

/-- The results of a read of the SHADOW bank (R172, R200). -/
def State.shadowRead (s : State) (first count : Byte) : List Byte :=
  [controllerCode s.ctrl, byteOf s.active, 1, missCode s.shadowBank.miss] ++
    (positions first count).flatMap fun i => ruleEntryBytes (s.shadowBank.entries.get i)

/-- READ_RULES carried out (R30, R172). -/
def cmdReadRules (r : Taken) (s : State) : Answer :=
  let bank := byteAt r.args 0
  let first := byteAt r.args 1
  let count := byteAt r.args 2
  if 1 < bank.toNat then s.refuse .badArgument
  else if bank = 1 ∧ isMirroring s.ctrl then s.refuse .mirroring
  else if rangeOk first count 4 then
    if bank = 1 then (s.renew r.key).accept ((s.renew r.key).shadowRead first count)
    else s.accept (s.activeRead first count)
  else s.refuse .badArgument

/-- READ_RULES (R172). -/
def execReadRules (s : State) : Host.Outcome State Fault Refusal :=
  .next (s.taking .readRules (State.carryOut (checkLength 3 cmdReadRules)))

/-- COMMIT NOW accepted for checking; a mode that is neither NOW nor AT is refused (R31, R173). -/
def cmdCommitNow (r : Taken) (s : State) : Answer :=
  if byteAt r.args 0 = 0 then s.swap.acceptEdit else s.refuse .badArgument

/-- COMMIT_NOW (R31). -/
def execCommitNow (s : State) : Host.Outcome State Fault Refusal :=
  .next (s.taking .commitNow (State.carryOut (checkLength 5 (gated false cmdCommitNow))))

/-- COMMIT AT T accepted for checking, decided against the present cell time (R32, R173). -/
def cmdCommitAt (r : Taken) (s : State) : Answer :=
  let t := wordAt r.args 1
  if activationReached t s.cellTime then s.swap.acceptEdit
  else if (t - s.cellTime).toNat ≤ Config.commitWindow then
    { s with ctrl := .scheduled r.key t }.acceptEdit
  else s.refuse .badArgument

/-- COMMIT_AT (R32). -/
def execCommitAt (s : State) : Host.Outcome State Fault Refusal :=
  .next (s.taking .commitAt (State.carryOut (checkLength 5 (gated false cmdCommitAt))))

/-- ABANDON carried out (R36). -/
def cmdAbandon (_r : Taken) (s : State) : Answer := s.startMirror.acceptEdit

/-- ABANDON (R36). -/
def execAbandon (s : State) : Host.Outcome State Fault Refusal :=
  .next (s.taking .abandon (State.carryOut (checkLength 0 (gated true cmdAbandon))))

end Sys2Proof.Machine
end

