-- ==== Sys2Proof/Machine/Egress.lean ====
section
/-! DEFINITION. The commands of the Egress Schedulers (R109 to R111). -/

namespace Sys2Proof.Machine

/-- SELECTION (R109, R110): taken while the four conditions hold. -/
def execSelection (p : Port) (s : State) : Host.Outcome State Fault Refusal :=
  .next (if s.running then (s.select p).settle s else s)

/-- EOF of the transmission at a port has been sent (R111). -/
def State.transmissionOver (s : State) (p : Port) : Bool :=
  match (s.port p).tx with
  | some t => t.left == 0
  | none => false

/-- TRANSMISSION_END (R111), with the selection that follows it at once (log 13). -/
def execTransmissionEnd (p : Port) (s : State) : Host.Outcome State Fault Refusal :=
  .next (match (s.port p).tx with
    | some t => if s.running && t.left == 0 then (s.endTransmission p t).settle s else s
    | none => s)

end Sys2Proof.Machine
end

