-- ==== Sys2Proof/Machine/Matching.lean ====
section
/-! DEFINITION. Matching one entry, looking a frame up in a bank, and rewriting a tag (R2 to R8, R12). -/

namespace Sys2Proof.Machine

/-- The tag condition: the tag ANDed with the match mask equals the match value (R3). -/
def tagCondition (e : RuleEntry) (t : Tag) : Bool := t &&& e.matchMask == e.matchValue

/-- The kind condition: the bit of the received kind is in the kind set (R4). -/
def kindCondition (e : RuleEntry) (k : FrameKind) : Bool := e.kinds.getLsbD (kindCode k).toNat

/-- The priority condition: the received priority lies in lo to hi (R4). -/
def prioCondition (e : RuleEntry) (q : Prio) : Bool := e.lo ≤ q && q ≤ e.hi

/-- A frame matches an entry when the entry is valid and all four conditions hold (R2, R4). -/
def entryMatches (e : RuleEntry) (p : Port) (h : Header) : Bool :=
  e.valid && tagCondition e h.tag && e.ingress.getLsbD p && kindCondition e h.kind && prioCondition e h.prio

/-- The lowest matching position of a bank, if any (R5). -/
def winningPos (b : Bank) (p : Port) (h : Header) : Option RulePos :=
  (List.finRange 64).find? (fun i => entryMatches (b.entries.get i) p h)

/-- The lookup result (R5, R7, R8). -/
def lookupIn (b : Bank) (p : Port) (h : Header) : Lookup :=
  match winningPos b p h with
  | some i => .hit i (b.entries.get i)
  | none => .miss b.miss

/-- A present tag rewrite: the bits under the mask take the value's, the others stay (R12). -/
def rewriteTag (w : Option Rewrite) (t : Tag) : Tag :=
  match w with
  | some w => (t &&& ~~~w.mask) ||| w.value
  | none => t

end Sys2Proof.Machine
end

