-- ==== Sys2Proof/Machine/Classifier.lean ====
section
/-! DEFINITION. The Classifier: what becomes of a frame at the good end of its reception (R43 to R58). The
receiver's reference to the buffer passes on or is given back here; the hold state is decided by the caller. -/

namespace Sys2Proof.Machine

/-- A frame handed to the Classifier: its ingress port, its buffer, its bytes and its header (R43). -/
structure FrameEnd where
  port : Port
  buf : BufId
  bytes : List Byte
  header : Header
deriving DecidableEq, Repr

/-- The on-wire length of a frame, from its payload length (R43). -/
def frameLength (h : Header) : Nat := h.payloadLength.toNat + 8

/-- The frame is dropped and counted at its ingress port, and its buffer given back (R56, R59). -/
def State.dropFrame (s : State) (f : FrameEnd) (count : PortCounters → PortCounters) : State :=
  (s.countPort f.port count).dropRef f.buf

/-- A frame is a request for this gateway: kind REQUEST, its own station or the wildcard (R45). -/
def State.isOwnRequest (s : State) (h : Header) : Bool :=
  h.kind == .request && (targetOf h.tag == 0#4 ++ s.straps.station || targetOf h.tag == Config.wildcardStation)

/-- Step 1 for a request for this gateway: captured, lost to a full queue, or refused (R45, R46). -/
def State.capture (s : State) (f : FrameEnd) : State :=
  if (s.port f.port).cfg.accepts then
    if s.agent.queue.length < Config.requestPlaces then
      { s with agent := { s.agent with queue := s.agent.queue ++ [{ buf := f.buf, port := f.port }] } }
    else
      ({ s with agent := { s.agent with counters :=
        { s.agent.counters with overflow := s.agent.counters.overflow + 1 } } }).dropRef f.buf
  else s.dropFrame f fun c => { c with mgmtRefused := c.mgmtRefused + 1 }

/-- The hit counter of a position advances (R18). -/
def State.bumpHit (s : State) (i : RulePos) : State := { s with hits := s.hits.set i (s.hits.get i + 1) }

/-- Step 5: the frame is shown to the bound flow, if there is one, and policed for a FORWARD entry (R52, R68). -/
def State.flowHandOff (s : State) (flow : Option FlowIx) (h : Header) (forward : Bool) : State × Verdict :=
  match flow with
  | none => (s, .pass)
  | some i =>
    let (g, v, n) := handOff s.localTime (frameLength h) forward (s.flow i)
    let t := s.setFlow i g
    match n with
    | some (k, d) => (t.raise k (byteOf i) d, v)
    | none => (t, v)

/-- Step 6: the ports of the forward set that are UP, the ingress port left out, in ascending order (R53). -/
def State.egressSet (s : State) (ingress : Port) (set : PortSet) : List Port :=
  (List.finRange 4).filter fun q => set.getLsbD q && q != ingress && (s.port q).isUp

/-- One offer of step 7: a copy is enqueued, or counted QUEUE_FULL (R55). -/
def State.offerCopy (s : State) (e : QueueEntry) (q : Port) : State :=
  if (s.port q).canAccept then s.enqueue q e else s.countPort q fun c => { c with queueFull := c.queueFull + 1 }

/-- The bytes with the transmitted header written over the received one (R58). -/
def rewriteHeader (bytes : List Byte) (h : Header) (prio : Prio) (tag : Tag) : List Byte :=
  headerBytes { h with prio, tag, hop := h.hop - 1 } ++ bytes.drop 6

/-- Steps 6 and 7: the egress set, the offers, the buffer's references and the transmitted header (R53 to R58). -/
def State.sendCopies (s : State) (f : FrameEnd) (set : PortSet) (prio : Prio) (tag : Tag) : State :=
  let out := s.egressSet f.port set
  if out.isEmpty then s.dropFrame f fun c => { c with noRoute := c.noRoute + 1 }
  else
    let n := out.countP fun q => (s.port q).canAccept
    let t := out.foldl (fun t q => t.offerCopy
      { buf := f.buf, prio, time := s.localTime, origin := .forwarded } q) s
    if n = 0 then t.dropRef f.buf
    else t.setBuf f.buf { refs := n, bytes := rewriteHeader f.bytes f.header prio tag }

/-- Steps 4 to 7 for the winning entry (R50 to R52). -/
def State.applyEntry (s : State) (f : FrameEnd) (e : RuleEntry) : State :=
  match e.action with
  | .drop => (s.flowHandOff e.flow f.header false).1.dropFrame f fun c => { c with ruleDrop := c.ruleDrop + 1 }
  | .forward set newPrio rewrite =>
    let (t, v) := s.flowHandOff e.flow f.header true
    match v with
    | .pass => t.sendCopies f set (newPrio.getD f.header.prio) (rewriteTag rewrite f.header.tag)
    | .demote => t.sendCopies f set 0 (rewriteTag rewrite f.header.tag)
    | .drop => t.dropFrame f fun c => { c with policedDrop := c.policedDrop + 1 }

/-- The Classifier's part of the frame-end happening, in the steps of R44. -/
def State.classify (s : State) (f : FrameEnd) : State :=
  if s.isOwnRequest f.header then s.capture f
  else if f.header.hop = 0 then s.dropFrame f fun c => { c with hopExpired := c.hopExpired + 1 }
  else
    match lookupIn s.activeBank f.port f.header with
    | .hit i e => (s.bumpHit i).applyEntry f e
    | .miss .drop => s.dropFrame f fun c => { c with missDrop := c.missDrop + 1 }
    | .miss .flood => s.sendCopies f 0xF f.header.prio f.header.tag

end Sys2Proof.Machine
end

