-- ==== Sys2Proof/Machine/Receiver.lean ====
section
/-! DEFINITION. The receiver: what a symbol does in each state of its port (R121, R122, R125 to R129, R137), and the
commands that bring a symbol. Each symbol has one meaning in each port state; the rows of the table name the
happenings it makes there (log 6, log 7). -/

namespace Sys2Proof.Machine

/-- The weight of a receive error on the score (R127). -/
def errorWeight : RxError → Nat
  | .headerCheck => 4
  | .length => 2
  | .runt => 2
  | .frameCheck => 4
  | .code => 1

/-- The counter of a receive error (R127, R140). -/
def countError (e : RxError) (c : PortCounters) : PortCounters :=
  match e with
  | .headerCheck => { c with rxHeaderCheck := c.rxHeaderCheck + 1 }
  | .length => { c with rxLength := c.rxLength + 1 }
  | .runt => { c with rxRunt := c.rxRunt + 1 }
  | .frameCheck => { c with rxFrameCheck := c.rxFrameCheck + 1 }
  | .code => { c with rxCode := c.rxCode + 1 }

/-- The counts of R128 at a frame's end that hands nothing to the Classifier: POOL_EMPTY in UP without a buffer,
QUARANTINE_DISCARD in QUARANTINE. -/
def countDiscard (quarantined hadBuffer : Bool) (c : PortCounters) : PortCounters :=
  if quarantined then { c with quarantineDiscard := c.quarantineDiscard + 1 }
  else if hadBuffer then c
  else { c with poolEmpty := c.poolEmpty + 1 }

/-- The detection of a receive error in a frame with buffer `buf`: one happening (R127, R128). The receiver is left
at `rx`. -/
def State.rxError (s : State) (p : Port) (buf : Option BufId) (e : RxError) (rx : Reception) : State :=
  let x := s.port p
  let t := (s.setPort p { x with
    rx := rx
    counters := countDiscard x.isQuarantine buf.isSome (countError e x.counters) }).dropRef? buf
  (if x.isUp then (t.scoreRise p (errorWeight e)).quarantineTest p else t).settle s

/-- An SOF outside a frame begins a reception, in UP with an ingress allocation (R98, R125). -/
def State.beginFrame (s : State) (p : Port) : State :=
  if (s.port p).isUp then
    match s.alloc Config.ingressNeed with
    | some (b, t) => t.setPort p { t.port p with rx := .frame (some b) [] }
    | none => s.setPort p { s.port p with rx := .frame none [] }
  else s.setPort p { s.port p with rx := .frame none [] }

/-- The receive error that a data byte brings, if any: `bytes` are those counted with it (R127). -/
def byteError (bytes : List Byte) : Option RxError :=
  let n := bytes.length
  if n = 6 ∧ headerCheck (bytes.take 5) ≠ byteAt bytes 5 then some .headerCheck
  else if n = 6 ∧ Config.payloadMax < (byteAt bytes 4).toNat then some .length
  else if 6 < n ∧ (byteAt bytes 4).toNat + 8 < n then some .length
  else none

/-- A data byte inside a frame (R125, R127). -/
def State.rxByte (s : State) (p : Port) (buf : Option BufId) (bytes : List Byte) (d : Byte) : State :=
  match byteError (bytes ++ [d]) with
  | some e => s.rxError p buf e .ignoring
  | none =>
    let t := s.setPort p { s.port p with rx := .frame buf (bytes ++ [d]) }
    match buf with
    | some b => t.writeByte b d
    | none => t

/-- The receive error that EOF brings after `bytes`, if any (R127). -/
def eofError (bytes : List Byte) : Option RxError :=
  let n := bytes.length
  let len := (byteAt bytes 4).toNat
  if n < 6 ∨ n < len + 8 then some .runt
  else if frameCheck (bytes.take (len + 6)) ≠ halfAt bytes (len + 6) then some .frameCheck
  else none

/-- A frame that ended good: handed to the Classifier in UP with a buffer, else counted as R128 gives (R43, R125). -/
def State.goodEnd (s : State) (p : Port) (buf : Option BufId) (bytes : List Byte) : State :=
  let x := s.port p
  match x.isUp, buf with
  | true, some b =>
    ((s.setPort p { x with rx := .idle, counters := { x.counters with rxGood := x.counters.rxGood + 1 } }).classify
      { port := p, buf := b, bytes := bytes, header := headerOf bytes }).settle s
  | _, _ =>
    ((s.setPort p { x with rx := .idle, counters := countDiscard x.isQuarantine buf.isSome x.counters }).dropRef?
      buf).settle s

/-- EOF inside a frame (R125, R127). -/
def State.rxEof (s : State) (p : Port) (buf : Option BufId) (bytes : List Byte) : State :=
  match eofError bytes with
  | some e => s.rxError p buf e .idle
  | none => s.goodEnd p buf bytes

/-- EOF that comes together with the FULL reset that took the frame's buffer, the reset taken first: a good frame is
classified against what the reset left, or captured (R41, R60, R159, R185; DEDUCED, log 29). It stands in a buffer
allocated as at an SOF taken just after the reset (R117); DESIGN CHOICE, log 31. With none free, or outside UP, and for
a damaged frame, it is one without a buffer (R128). -/
def State.rxEofStripped (s : State) (p : Port) (bytes : List Byte) : State :=
  match eofError bytes with
  | some e => s.rxError p none e .idle
  | none =>
    match (s.port p).isUp, s.alloc Config.ingressNeed with
    | true, some (b, t) => (t.writeFrame b bytes).goodEnd p (some b) bytes
    | _, _ => s.goodEnd p none bytes

/-- A symbol outside a frame: SOF begins a reception, EOF, IDLE and ALIGN end the ignoring of R127 (R126). -/
def State.frameSymbolOutside (s : State) (p : Port) (sym : Symbol) : State :=
  match sym with
  | .sof => s.beginFrame p
  | .eof => s.setPort p { s.port p with rx := .idle }
  | .idle => s.setPort p { s.port p with rx := .idle }
  | .align => s.setPort p { s.port p with rx := .idle }
  | .data _ => s
  | .hold => s
  | .resume => s
  | .invalid => s

/-- A symbol inside a frame (R125 to R127). -/
def State.frameSymbolInside (s : State) (p : Port) (buf : Option BufId) (bytes : List Byte) (sym : Symbol) : State :=
  match sym with
  | .data d => s.rxByte p buf bytes d
  | .eof => s.rxEof p buf bytes
  | .idle => s.rxError p buf .runt .idle
  | .align => s.rxError p buf .runt .idle
  | .sof => (s.rxError p buf .runt .idle).beginFrame p
  | .invalid => s.rxError p buf .code .ignoring
  | .hold => s
  | .resume => s

/-- A symbol inside a frame whose buffer a FULL reset has taken at this very instant: EOF comes together with the
reset, and every other symbol is one inside a frame without a buffer (R60, R117, R143, R185, log 29). -/
def State.frameSymbolStripped (s : State) (p : Port) (bytes : List Byte) (sym : Symbol) : State :=
  match sym with
  | .eof => s.rxEofStripped p bytes
  | _ => s.frameSymbolInside p none bytes sym

/-- What a symbol does to the delimiting of frames, in UP and in QUARANTINE (R126). -/
def State.delimit (s : State) (p : Port) (sym : Symbol) : State :=
  match (s.port p).rx with
  | .frame buf bytes => s.frameSymbolInside p buf bytes sym
  | .stripped bytes => s.frameSymbolStripped p bytes sym
  | .ignoring => s.frameSymbolOutside p sym
  | .idle => s.frameSymbolOutside p sym

/-- UP loses lock: TRAINING, with PORT_DOWN; a frame cannot be live (R122). -/
def State.loseLock (s : State) (p : Port) : State := (s.leaveUp p (.training 0)).enterTraining p

/-- One more invalid symbol in the run of an UP port; the fourth loses lock (R122). -/
def State.countInvalid (s : State) (p : Port) : State :=
  match (s.port p).link with
  | .up run held =>
    if Config.lockLimit ≤ run + 1 then (s.loseLock p).settle s
    else s.setPort p { s.port p with link := .up (run + 1) held }
  | _ => s

/-- HOLD and RESUME from the partner, in UP (R137). -/
def State.partnerHold (s : State) (p : Port) (held : Option Instant) : State :=
  s.setPort p { s.port p with link := .up 0 held }

/-- The expiry that a HOLD received now gives (R137). -/
def State.holdExpiryFrom (s : State) (p : Port) : Instant := s.after ((s.port p).cfg.holdLimit * 100)

/-- A symbol received while the port is UP, its invalid run and partner hold as given (R122, R126, R137). -/
def State.receiveUp (s : State) (p : Port) (held : Option Instant) (sym : Symbol) : State :=
  match sym with
  | .invalid => (s.delimit p .invalid).countInvalid p
  | .hold => s.partnerHold p (some (s.holdExpiryFrom p))
  | .resume => s.partnerHold p none
  | _ => (s.partnerHold p held).delimit p sym

/-- A symbol received in TRAINING with the training count `n` (R121). -/
def State.receiveTraining (s : State) (p : Port) (n : Nat) (sym : Symbol) : State :=
  if symbolValid sym then
    if Config.trainingLength ≤ n + 1 then s.enterUp p
    else s.setPort p { s.port p with link := .training (n + 1) }
  else s.setPort p { s.port p with link := .training 0 }

/-- A symbol is received on a port (R119 to R127). The receivers are ignored while RESET is held (R204). -/
def State.receive (s : State) (p : Port) (sym : Symbol) : State :=
  if s.running then
    match (s.port p).link with
    | .disabled => s
    | .down => s
    | .training n => s.receiveTraining p n sym
    | .up _ held => s.receiveUp p held sym
    | .quarantine _ => s.delimit p sym
  else s

/-! ### The commands that bring a symbol -/

/-- TRAINING_SYMBOL: the code group received, decoded (R121, R198). -/
def execTrainingSymbol (p : Port) (code : BitVec 10) (s : State) : Host.Outcome State Fault Refusal :=
  .next (s.receive p (decodeSymbol code))

/-- SOF_RECEIVED (R125). -/
def execSofReceived (p : Port) (s : State) : Host.Outcome State Fault Refusal := .next (s.receive p .sof)

/-- DATA_BYTE_RECEIVED (R125). -/
def execDataByteReceived (p : Port) (d : Byte) (s : State) : Host.Outcome State Fault Refusal :=
  .next (s.receive p (.data d))

/-- FRAME_END: EOF (R125). -/
def execFrameEnd (p : Port) (s : State) : Host.Outcome State Fault Refusal := .next (s.receive p .eof)

/-- RECEIVE_ERROR: the symbol at which the error is detected (R127). -/
def execReceiveError (p : Port) (sym : Symbol) (s : State) : Host.Outcome State Fault Refusal :=
  .next (s.receive p sym)

/-- INVALID_SYMBOL (R122). -/
def execInvalidSymbol (p : Port) (s : State) : Host.Outcome State Fault Refusal := .next (s.receive p .invalid)

/-- HOLD_RECEIVED (R137). -/
def execHoldReceived (p : Port) (s : State) : Host.Outcome State Fault Refusal := .next (s.receive p .hold)

/-- RESUME_RECEIVED (R137). -/
def execResumeReceived (p : Port) (s : State) : Host.Outcome State Fault Refusal := .next (s.receive p .resume)

end Sys2Proof.Machine
end

