-- ==== Sys2Proof/Machine/Links.lean ====
section
/-! DEFINITION. The commands of the lines and lanes, and the timers of the ports and of the pool (R103, R120, R131,
R135, R137, R204). A timed happening whose instant has not passed is not taken: nothing changes (log 4). -/

namespace Sys2Proof.Machine

/-! ### The RESET line (R204) -/

/-- The part while RESET_N is low: it does not run, local time is 0, no state is kept but the latched straps
(R157, R204, log 15). -/
def State.heldInReset (st : Straps) : State :=
  { State.powerOn st 0 with
    running := false
    notices := { queue := [], nextSeq := 0, lost := 0, cfg := defaultNoticeConfig, waiting := none } }

/-- POWER_ON: the rising edge of RESET_N (R204). -/
def execPowerOn (straps : Straps) (signals : PortSet) (s : State) : Host.Outcome State Fault Refusal :=
  .next { State.powerOn straps signals with pending := s.pending }

/-- RESET_HELD: RESET_N is low (R204). -/
def execResetHeld (s : State) : Host.Outcome State Fault Refusal :=
  .next { State.heldInReset s.straps with pending := s.pending }

/-! ### The lane's signal (R120) -/

/-- The signal appears on a port's lane (R120). -/
def State.signalOn (s : State) (p : Port) : State :=
  let t := s.setPort p { s.port p with signal := true }
  match (s.port p).link with
  | .down => t.enterTraining p
  | .disabled => t
  | .training _ => t
  | .up .. => t
  | .quarantine _ => t

/-- The end that loss of signal makes of a reception in UP: a RUNT with its weight and the warned test, no quarantine
test (R129). -/
def State.runtAtSignalLoss (s : State) (p : Port) : State :=
  match (s.port p).rx.inside with
  | some (buf, _) =>
    let x := s.port p
    ((s.setPort p { x with
      rx := .idle
      counters := countDiscard false buf.isSome (countError .runt x.counters) }).dropRef? buf).scoreRise p
        (errorWeight .runt)
  | none => s.setPort p { s.port p with rx := .idle }

/-- The end that loss of signal makes of a reception in QUARANTINE: counted, with no weight (R129). -/
def State.discardAtSignalLoss (s : State) (p : Port) : State :=
  match (s.port p).rx.inside with
  | some (buf, _) =>
    let x := s.port p
    (s.setPort p { x with
      rx := .idle
      counters := countDiscard true buf.isSome (countError .runt x.counters) }).dropRef? buf
  | none => s.setPort p { s.port p with rx := .idle }

/-- The signal disappears from a port's lane (R120, R123, R129, R135). -/
def State.signalOff (s : State) (p : Port) : State :=
  let t := s.setPort p { s.port p with signal := false }
  match (s.port p).link with
  | .disabled => t
  | .down => t
  | .training _ => t.setPort p { t.port p with link := .down }
  | .up .. => ((t.leaveUp p .down).runtAtSignalLoss p).settle s
  | .quarantine _ =>
    (((t.discardAtSignalLoss p).setPort p { (t.discardAtSignalLoss p).port p with link := .down }).resumeLeak
      p).settle s

/-- SIGNAL_DETECTED (R120). -/
def execSignalDetected (p : Port) (s : State) : Host.Outcome State Fault Refusal :=
  .next (if s.running then s.signalOn p else s)

/-- SIGNAL_LOST (R120). -/
def execSignalLost (p : Port) (s : State) : Host.Outcome State Fault Refusal :=
  .next (if s.running then s.signalOff p else s)

/-! ### Port timers -/

/-- The hold expiry of a port has passed (R137). -/
def State.holdExpiryDue (s : State) (p : Port) : Bool :=
  match (s.port p).link with
  | .up _ (some e) => s.passed e
  | _ => false

/-- The partner-held flag clears, the invalid run as it was (R137). -/
def clearHold : LinkState → LinkState
  | .up run _ => .up run none
  | l => l

/-- HOLD_EXPIRY (R137). -/
def execHoldExpiry (p : Port) (s : State) : Host.Outcome State Fault Refusal :=
  .next (if s.running && s.holdExpiryDue p then
    s.setPort p { s.port p with link := clearHold (s.port p).link } else s)

/-- The next leak of a port has passed (R131). -/
def State.leakDue (s : State) (p : Port) : Bool :=
  match (s.port p).nextLeak with
  | some t => s.passed t
  | none => false

/-- One leak step (R131, R132). -/
def State.leakStep (s : State) (p : Port) : State :=
  let x := s.port p
  let score := x.score - 1
  (s.setPort p { x with
    score := score
    nextLeak := if score = 0 then none
      else x.nextLeak.map fun t => t + BitVec.ofNat 32 (x.cfg.leakInterval * 1000) }).warnedTest p

/-- LEAK (R131). -/
def execLeak (p : Port) (s : State) : Host.Outcome State Fault Refusal :=
  .next (if s.running && s.leakDue p then s.leakStep p else s)

/-- The quarantine end of a port has passed (R135). -/
def State.quarantineDue (s : State) (p : Port) : Bool :=
  match (s.port p).link with
  | .quarantine e => s.passed e
  | _ => false

/-- QUARANTINE_END (R135). -/
def execQuarantineEnd (p : Port) (s : State) : Host.Outcome State Fault Refusal :=
  .next (if s.running && s.quarantineDue p then (s.endQuarantine p).settle s else s)

/-! ### The pool's timer -/

/-- HOLD_REPEAT (R103). -/
def execHoldRepeat (s : State) : Host.Outcome State Fault Refusal :=
  .next (match s.pool.hold with
    | .holding r =>
      if s.running && s.passed r then
        ({ s with pool := { s.pool with hold := .holding (r + Config.holdRepeatSpacing) } }).sendToUp .hold
      else s
    | .normal => s)

end Sys2Proof.Machine
end

