-- ==== Sys2Proof/Machine/Notices.lean ====
section
/-! DEFINITION. The Notice Unit's build of a NOTICE frame (R189 to R191). -/

namespace Sys2Proof.Machine

/-- The send condition (R190). -/
def State.sendCondition (s : State) : Bool :=
  s.notices.waiting.isNone && !s.notices.queue.isEmpty && (s.port s.notices.cfg.dest).canAccept

/-- The lost count dealt with after records have left the queue (R189). -/
def reportLost (u : NoticeUnit) (time : Instant) : NoticeUnit :=
  if u.lost = 0 then u
  else if kindEnabled u.cfg.mask .noticesLost then
    { u with
      nextSeq := u.nextSeq + 1
      queue := u.queue ++ [{ seq := u.nextSeq, kind := .noticesLost, time, subject := 0,
                             detail := BitVec.ofNat 16 (min u.lost.toNat 65535) }]
      lost := 0 }
  else { u with lost := 0 }

/-- The NOTICE frame of some records (R191). -/
def noticeFrame (c : NoticeConfig) (rs : List Record) : List Byte :=
  frameBytes (builtHeader .notice c.prio c.tag (noticePayload rs)) (noticePayload rs)

/-- Steps 2 to 6 of a build, its buffer `b` allocated (R191). -/
def State.buildInto (s : State) (b : BufId) : State :=
  let c := s.notices.cfg
  let rs := s.notices.queue.take Config.recordsPerFrame
  let t := (s.writeFrame b (noticeFrame c rs)).enqueue c.dest
    { buf := b, prio := c.prio, time := s.localTime, origin := .notice }
  let u := { s.notices with queue := s.notices.queue.drop Config.recordsPerFrame, waiting := some c.dest }
  { t with notices := reportLost u s.cellTime }

/-- A build (R190, R191): nothing when the send condition does not hold or no buffer is free. -/
def State.build (s : State) : State :=
  if s.sendCondition then
    match s.alloc Config.agentNeed with
    | some (b, t) => t.buildInto b
    | none => s
  else s

/-- NOTICE_BUILD (R191). -/
def execNoticeBuild (s : State) : Host.Outcome State Fault Refusal := .next (if s.running then s.build else s)

end Sys2Proof.Machine
end

