-- ==== Sys2Proof/Machine/Dispatch.lean ====
section
/-! DEFINITION. The meaning of every command, one arm a constructor. -/

namespace Sys2Proof.Machine

/-- A command's effect on everything but the queue of waiting commands. -/
def exec (i : Instr) (s : State) : Host.Outcome State Fault Refusal :=
  match i with
  | .powerOn straps signals => Sys2Proof.Machine.execPowerOn straps signals s
  | .resetHeld => Sys2Proof.Machine.execResetHeld s
  | .signalDetected p => Sys2Proof.Machine.execSignalDetected p s
  | .signalLost p => Sys2Proof.Machine.execSignalLost p s
  | .trainingSymbol p code => Sys2Proof.Machine.execTrainingSymbol p code s
  | .sofReceived p => Sys2Proof.Machine.execSofReceived p s
  | .dataByteReceived p d => Sys2Proof.Machine.execDataByteReceived p d s
  | .frameEnd p => Sys2Proof.Machine.execFrameEnd p s
  | .receiveError p sym => Sys2Proof.Machine.execReceiveError p sym s
  | .invalidSymbol p => Sys2Proof.Machine.execInvalidSymbol p s
  | .holdReceived p => Sys2Proof.Machine.execHoldReceived p s
  | .resumeReceived p => Sys2Proof.Machine.execResumeReceived p s
  | .holdExpiry p => Sys2Proof.Machine.execHoldExpiry p s
  | .leak p => Sys2Proof.Machine.execLeak p s
  | .quarantineEnd p => Sys2Proof.Machine.execQuarantineEnd p s
  | .holdRepeat => Sys2Proof.Machine.execHoldRepeat s
  | .selection p => Sys2Proof.Machine.execSelection p s
  | .transmissionEnd p => Sys2Proof.Machine.execTransmissionEnd p s
  | .deadlineExpiry k => Sys2Proof.Machine.execDeadlineExpiry k s
  | .fillUp k => Sys2Proof.Machine.execFillUp k s
  | .leaseExpiry => Sys2Proof.Machine.execLeaseExpiry s
  | .activation => Sys2Proof.Machine.execActivation s
  | .mirrorStep => Sys2Proof.Machine.execMirrorStep s
  | .agentReady => Sys2Proof.Machine.execAgentReady s
  | .requesterEntryExpiry k => Sys2Proof.Machine.execRequesterEntryExpiry k s
  | .malformed => Sys2Proof.Machine.execMalformed s
  | .replay => Sys2Proof.Machine.execReplay s
  | .unknownCommand => Sys2Proof.Machine.execUnknownCommand s
  | .identify => Sys2Proof.Machine.execIdentify s
  | .readCountersPort => Sys2Proof.Machine.execReadCountersPort s
  | .readCountersPool => Sys2Proof.Machine.execReadCountersPool s
  | .readCountersAgent => Sys2Proof.Machine.execReadCountersAgent s
  | .readCountersRules => Sys2Proof.Machine.execReadCountersRules s
  | .adjustTime => Sys2Proof.Machine.execAdjustTime s
  | .openEdit => Sys2Proof.Machine.execOpenEdit s
  | .writeRule => Sys2Proof.Machine.execWriteRule s
  | .clearRules => Sys2Proof.Machine.execClearRules s
  | .writeMiss => Sys2Proof.Machine.execWriteMiss s
  | .readRules => Sys2Proof.Machine.execReadRules s
  | .commitNow => Sys2Proof.Machine.execCommitNow s
  | .commitAt => Sys2Proof.Machine.execCommitAt s
  | .abandon => Sys2Proof.Machine.execAbandon s
  | .writeFlow => Sys2Proof.Machine.execWriteFlow s
  | .readFlow => Sys2Proof.Machine.execReadFlow s
  | .setPort => Sys2Proof.Machine.execSetPort s
  | .readPort => Sys2Proof.Machine.execReadPort s
  | .releasePort => Sys2Proof.Machine.execReleasePort s
  | .setNotices => Sys2Proof.Machine.execSetNotices s
  | .resetTraffic => Sys2Proof.Machine.execResetTraffic s
  | .resetFull => Sys2Proof.Machine.execResetFull s
  | .noticeBuild => Sys2Proof.Machine.execNoticeBuild s

end Sys2Proof.Machine
end

