-- ==== Sys2Proof/Machine/Idle.lean ====
section
/-! DEFINITION. What the part does while no command waits: the next happening of its own that is due, and else one
symbol time of 20 ns passes (R64, R109, R111, R146, R190; log 1, log 5). -/

namespace Sys2Proof.Machine

/-- The happenings of a port that are due, in the order the model takes them (log 5). -/
def State.portDue (s : State) (p : Port) : Option Instr :=
  if s.transmissionOver p then some (.transmissionEnd p)
  else if s.quarantineDue p then some (.quarantineEnd p)
  else if s.leakDue p then some (.leak p)
  else if s.holdExpiryDue p then some (.holdExpiry p)
  else none

/-- The happenings of a flow that are due. -/
def State.flowDue (s : State) (i : FlowIx) : Option Instr :=
  if (s.expiredDeadline i).isSome then some (.deadlineExpiry i)
  else if s.fillUpDue i then some (.fillUp i)
  else none

/-- The happening of the Bank Controller that is due. -/
def State.bankDue (s : State) : Option Instr :=
  match s.ctrl with
  | .free => none
  | .editing _ _ e => if s.passed e then some .leaseExpiry else none
  | .scheduled _ _ => if s.activationDue then some .activation else none
  | .mirroring k e => if s.passed (mirrorAt e k) then some .mirrorStep else none

/-- The repeat of the pool's HOLD that is due. -/
def State.poolDue (s : State) : Option Instr :=
  match s.pool.hold with
  | .holding r => if s.passed r then some .holdRepeat else none
  | .normal => none

/-- The timed happenings of the Agent that are due. -/
def State.agentDue (s : State) : Option Instr :=
  if s.busyOver then some .agentReady
  else (s.agent.table.find? s.entryExpired).map fun e => .requesterEntryExpiry e.key

/-- The selection that is due (R109). -/
def State.selectionDue (s : State) : Option Instr :=
  ((List.finRange 4).find? fun p => (s.port p).canSelect).map .selection

/-- A build that is due and can get its buffer; one that finds none changes nothing (R190, R191). -/
def State.buildDue (s : State) : Option Instr :=
  if s.sendCondition && Config.agentNeed ≤ s.freeCount then some .noticeBuild else none

/-- The next happening of the part's own that is due, in the model's order (log 5). -/
def State.due (s : State) : Option Instr :=
  if s.running then
    ((List.finRange 4).findSome? s.portDue).or <|
      ((List.finRange 128).findSome? s.flowDue).or <|
        s.bankDue.or <| s.poolDue.or <| s.agentDue.or <| s.takingDue.or <| s.selectionDue.or s.buildDue
  else none

/-- One symbol time passes: every transmitter sends a symbol, and every 50th local time advances (R64, R111). -/
def State.tick (s : State) : State :=
  if s.running then
    { s with
      ports := Vector.ofFn fun p : Port => (s.port p).symbolTime
      phase := if Config.symbolsPerMicro ≤ s.phase + 1 then 0 else s.phase + 1
      localTime := if Config.symbolsPerMicro ≤ s.phase + 1 then s.localTime + 1 else s.localTime }
  else s

/-- The part with no command waiting (log 1). -/
def State.idle (s : State) : Host.Outcome State Fault Refusal :=
  match s.due with
  | some c => exec c s
  | none => .next s.tick

end Sys2Proof.Machine
end

