-- ==== Sys2Proof/Safety.lean ====
section
/-! DEFINITION. What counts as a sound state of the HX4: the invariants the manual states of its tables, queues and
buffers; and the relations in which statements speak of what a step leaves. Every one is a predicate of plain data. -/

namespace Sys2Proof.Machine

/-! ### Frames -/

/-- `t` differs from `s` at most in the ports, the pool and the Notice Unit. -/
def State.sameButLinks (s t : State) : Prop :=
  t = { s with ports := t.ports, pool := t.pool, notices := t.notices }

/-! ### The pool (R96, R97, R100) -/

/-- A free buffer holds no bytes: its former bytes are not readable (R100). -/
abbrev Pool.wf (p : Pool) : Prop := ∀ b : BufId, (p.bufs.get b).refs = 0 → p.bufs.get b = freeBuffer

/-- The buffers a port holds references to: of its reception, of its queue's entries, of its transmitter (R97). -/
def PortRec.held (x : PortRec) : List BufId :=
  (match x.rx with
    | .frame (some b) _ => [b]
    | _ => [])
    ++ x.queue.map (·.buf) ++ x.tx.toList.map (·.buf)

/-- Every reference held in the part, one list entry a reference: the ports' and the request queue's (R97). -/
def State.holders (s : State) : List BufId :=
  (List.finRange 4).flatMap (fun p => (s.port p).held) ++ s.agent.queue.map (·.buf)

/-- A buffer that a reception or the request queue holds has no other holder (R97, R145). -/
def State.soleHolders (s : State) : Prop :=
  (∀ p b l, (s.port p).rx = .frame (some b) l → (s.buf b).refs = 1)
    ∧ ∀ r ∈ s.agent.queue, (s.buf r.buf).refs = 1

/-- Every buffer's reference count is the number of its holders (R97), a free buffer is empty (R100), and receptions
are in progress in UP and QUARANTINE alone (R125). -/
def State.refsInv (s : State) : Prop :=
  (∀ b, (s.buf b).refs = s.holders.count b)
    ∧ s.pool.wf
    ∧ s.soleHolders
    ∧ ∀ p, (s.port p).rx.inside.isSome = true → (s.port p).isUp = true ∨ (s.port p).isQuarantine = true

/-! ### Flows (R61 to R63, R85) -/

/-- A configuration within the ranges of R61. -/
def FlowConfig.wf (c : FlowConfig) : Prop :=
  100 ≤ c.period.toNat ∧ c.period.toNat ≤ 2000000 ∧ c.tolerance.toNat ≤ c.period.toNat / 2
    ∧ 1 ≤ c.lossLimit ∧ c.lossLimit ≤ 15 ∧ c.rate ≤ 65535 ∧ 1 ≤ c.burst ∧ c.burst ≤ 65535

/-- The state, miss count and deadline of a flow as R63's table has them. -/
def FlowEntry.cadenceWf (f : FlowEntry) : Prop :=
  match f.state with
  | .unused => f.missCount = 0 ∧ f.deadline = none
  | .armed => f.missCount = 0 ∧ f.deadline = none
  | .onTime => f.missCount = 0 ∧ f.deadline.isSome = true
  | .late => 1 ≤ f.missCount ∧ f.missCount ≤ f.cfg.lossLimit - 1 ∧ f.deadline.isSome = true
  | .lost => f.missCount = f.cfg.lossLimit ∧ f.deadline = none

/-- A flow entry as R61 to R63 and R85 give it. -/
def FlowEntry.wf (f : FlowEntry) : Prop := f.cfg.wf ∧ f.cadenceWf ∧ f.tokens ≤ f.cfg.burst * 1000

/-- Every flow entry is as R61 to R63 and R85 give it. -/
def State.flowsInv (s : State) : Prop := ∀ i, (s.flow i).wf

/-! ### Ports (R107, R119, R130 to R133, R138) -/

/-- A configuration within the ranges of R138. -/
def PortConfig.wf (c : PortConfig) : Prop :=
  1 ≤ c.queueLimit ∧ c.queueLimit ≤ 48 ∧ c.ageLimit ≤ 255
    ∧ 1 ≤ c.warnThreshold ∧ c.warnThreshold < c.quarantineThreshold ∧ c.quarantineThreshold ≤ 1023
    ∧ 1 ≤ c.leakInterval ∧ c.leakInterval ≤ 255 ∧ 1 ≤ c.holdLimit ∧ c.holdLimit ≤ 255
    ∧ 1 ≤ c.quarantineHold ∧ c.quarantineHold ≤ 255

/-- The queue in priority order, at most 48 deep (R107), and with the transmitter empty unless the port is UP (R109,
R114). -/
def PortRec.queueWf (x : PortRec) : Prop :=
  x.queue.length ≤ 48
    ∧ x.queue.Pairwise (fun a b => b.prio ≤ a.prio)
    ∧ (x.isUp = false → x.queue = [] ∧ x.tx = none)

/-- The score, the warned flag, the next leak and the state of a port as R119 and R130 to R133 tie them together. -/
def PortRec.scoreWf (x : PortRec) : Prop :=
  x.score ≤ 1023
    ∧ (x.warned = true → x.cfg.warnThreshold ≤ 2 * x.score)
    ∧ (x.warned = false → x.score < x.cfg.warnThreshold)
    ∧ (x.isUp = true ∨ x.isTraining = true → x.score < x.cfg.quarantineThreshold)
    ∧ (x.nextLeak.isSome = true ↔ 0 < x.score ∧ x.isQuarantine = false)

/-- DISABLED exactly while the enable setting is off (R124). -/
def PortRec.enableWf (x : PortRec) : Prop := x.cfg.enable = false ↔ x.link = .disabled

/-- Every port is as R107, R119, R124, R130 to R133 and R138 give it. -/
def State.portsInv (s : State) : Prop :=
  ∀ p, (s.port p).cfg.wf ∧ (s.port p).queueWf ∧ (s.port p).scoreWf ∧ (s.port p).enableWf

/-- At least one port is enabled and accepts management requests (R178). -/
def State.reachable (s : State) : Prop := ∃ p, (s.port p).cfg.enable = true ∧ (s.port p).cfg.accepts = true

/-! ### Banks (R23, R37) -/

/-- The Bank Controller's record and the shadow bank as its state bounds them: FREE, a copy of the active bank (R23);
EDITING, a lease of 1 to 600 s (R22, R25); MIRRORING, a copy at every position already mirrored (R37). -/
def State.banksInv (s : State) : Prop :=
  match s.ctrl with
  | .free => s.shadowBank = s.activeBank
  | .editing _ d _ => 1 ≤ d ∧ d ≤ 600
  | .scheduled _ _ => True
  | .mirroring k _ => ∀ i : RulePos, i.val < k.val → s.shadowBank.entries.get i = s.activeBank.entries.get i

/-! ### The Agent and the Notice Unit (R145, R150, R188, R191) -/

/-- The request queue, the requester table and the holder's place in it (R145, R150). -/
def State.agentInv (s : State) : Prop :=
  s.agent.queue.length ≤ 4
    ∧ s.agent.table.length ≤ 4
    ∧ (s.agent.table.map (·.key)).Nodup
    ∧ ∀ k, holderOf s.ctrl = some k → k ∈ s.agent.table.map (·.key)

/-- The ports whose queues hold a NOTICE frame, one list entry a frame. -/
def State.noticeFrames (s : State) : List Port :=
  (List.finRange 4).flatMap fun p => ((s.port p).queue.filter fun e => e.origin == .notice).map fun _ => p

/-- The notice queue's bound (R188), and the waiting frame, the one NOTICE frame on an egress queue (R191, R192). -/
def State.noticesInv (s : State) : Prop :=
  s.notices.queue.length ≤ 32 ∧ s.noticeFrames = s.notices.waiting.toList

/-! ### What a happening leaves of a port (06, 07) -/

/-- A port whose queue is flushed and whose transmission is aborted (R114). -/
def flushed (x : PortRec) : PortRec :=
  { x with
    queue := []
    tx := none
    counters := { x.counters with
      flushed := x.counters.flushed + BitVec.ofNat 32 x.queue.length
      aborted := if x.tx.isSome then x.counters.aborted + 1 else x.counters.aborted } }

/-- The references that a flush gives back (R114). -/
def flushedRefs (x : PortRec) : List BufId := x.queue.map (·.buf) ++ x.tx.toList.map (·.buf)

/-- A port whose score has risen by `w`, `next` being one leak interval away (R130 to R132). -/
def risen (x : PortRec) (w : Nat) (next : Instant) : PortRec :=
  let y := { x with
    score := min Config.scoreMax (x.score + w)
    nextLeak := if x.score = 0 then some next else x.nextLeak }
  { y with warned := warnedAfter y }

/-- A port that has entered QUARANTINE, from UP with a flush (R114, R133). -/
def quarantined (x : PortRec) (endAt : Instant) : PortRec :=
  let y := if x.isUp then flushed x else x
  { y with link := .quarantine endAt, nextLeak := none, ctl := [] }

/-- A port that has entered TRAINING, where nothing is received (R121, R125). -/
def training (x : PortRec) : PortRec := { x with rx := .idle, link := .training 0 }

/-- A port whose invalid run a valid symbol has ended (R122). -/
def lockHeld (x : PortRec) : PortRec :=
  { x with link := match x.link with
      | .up _ held => .up 0 held
      | l => l }

/-- A port whose frame has ended good (R125). -/
def endedGood (x : PortRec) : PortRec :=
  { lockHeld x with rx := .idle, counters := { x.counters with rxGood := x.counters.rxGood + 1 } }

/-- The notices once entries have left a queue: a NOTICE frame among them waits no more (R192). -/
def noticesAfter (u : NoticeUnit) (left : List QueueEntry) : NoticeUnit :=
  if left.any (fun e => e.origin == .notice) then { u with waiting := none } else u

/-- The notices after the warned test that took port `p` from `x` to `y` at cell time `time` (R132). -/
def warnedNotices (u : NoticeUnit) (p : Port) (x y : PortRec) (time : Instant) : NoticeUnit :=
  if !x.warned && y.warned then pushNotice u .portWarn time (byteOf p) (BitVec.ofNat 16 y.score) else u

/-- A port and the notices once a score has risen by `w` at local time `now` and cell time `time`, UP: left as the rise
made them, or in QUARANTINE (R130 to R133). -/
def scored (x : PortRec) (u : NoticeUnit) (p : Port) (w : Nat) (now time : Instant) :
    PortRec × NoticeUnit × List BufId :=
  let y := risen x w (now + BitVec.ofNat 32 (x.cfg.leakInterval * 1000))
  let v := warnedNotices u p x y time
  if y.cfg.quarantineThreshold ≤ y.score then
    (quarantined y (now + BitVec.ofNat 32 (x.cfg.quarantineHold * 100000)),
      pushNotice (noticesAfter v x.queue) .portQuarantined time (byteOf p) (BitVec.ofNat 16 y.score),
      flushedRefs x)
  else (y, v, [])

/-- A buffer of which `n` references are given back; with the last of them it is free and empty (R97, R100). -/
def Buffer.less (x : Buffer) (n : Nat) : Buffer :=
  if n = 0 then x else if x.refs ≤ n then freeBuffer else { x with refs := x.refs - n }

/-- The releases from `s` to `t` leave HOLDING (R104). -/
def State.resumed (s t : State) : Bool := s.pool.hold != .normal && s.freeCount < t.freeCount && 24 ≤ t.freeCount

/-- Port `p` becomes `x`, the references `bs` are given back, and the notices become `u`; the pool leaves HOLDING when
the releases free buffers enough, with RESUME to every UP port; and nothing else changes (R97, R100, R104). -/
structure Released (s t : State) (p : Port) (x : PortRec) (bs : List BufId) (u : NoticeUnit) : Prop where
  rest : t = { s with ports := t.ports, pool := t.pool, notices := u }
  bufs : ∀ b, t.buf b = (s.buf b).less (bs.count b)
  pool : t.pool = { s.pool with bufs := t.pool.bufs, hold := if s.resumed t then .normal else s.pool.hold }
  own : t.port p = { x with ctl := x.ctl ++ if x.isUp && s.resumed t then [.resume] else [] }
  others : ∀ q, q ≠ p → t.port q =
    { s.port q with ctl := (s.port q).ctl ++ if (s.port q).isUp && s.resumed t then [.resume] else [] }

/-- Buffer `b`, free in `s`, is allocated; the pool enters HOLDING when few enough are left, with HOLD to every UP port
and the notice POOL_LOW; and nothing else changes (R98, R99, R102). -/
structure Allocated (s t : State) (b : BufId) : Prop where
  rest : t = { s with ports := t.ports, pool := t.pool, notices := t.notices }
  wasFree : (s.buf b).refs = 0
  bufs : ∀ c, t.buf c = if c = b then { refs := 1, bytes := [] } else s.buf c
  pool : t.pool = { bufs := t.pool.bufs, minFree := min s.pool.minFree (s.freeCount - 1)
                    hold := if s.pool.hold = .normal ∧ s.freeCount ≤ 12 then .holding (s.localTime + 500)
                      else s.pool.hold
                    holdEntries := if s.pool.hold = .normal ∧ s.freeCount ≤ 12 then s.pool.holdEntries + 1
                      else s.pool.holdEntries }
  ports : ∀ p, t.port p = { s.port p with ctl := (s.port p).ctl ++
    if (s.port p).isUp = true ∧ s.pool.hold = .normal ∧ s.freeCount ≤ 12 then [.hold] else [] }
  notices : t.notices = if s.pool.hold = .normal ∧ s.freeCount ≤ 12 then
      pushNotice s.notices .poolLow s.cellTime 0 (BitVec.ofNat 16 (s.freeCount - 1))
    else s.notices

/-! ### Frames received (R125, R127, R199) -/

/-- Port `p`, UP, is inside a frame whose buffer `b` it alone holds, with bytes `l` counted (R97, R125). -/
abbrev State.receiving (s : State) (p : Port) (b : BufId) (l : List Byte) : Prop :=
  s.running = true ∧ (s.port p).isUp = true ∧ (s.port p).rx = .frame (some b) l ∧ (s.buf b).refs = 1

/-- The bytes of a frame that is as long as its header says, with a good frame check (R127, R199). -/
abbrev goodFrame (l : List Byte) : Prop :=
  l.length = (byteAt l 4).toNat + 8
    ∧ frameCheck (l.take ((byteAt l 4).toNat + 6)) = halfAt l ((byteAt l 4).toNat + 6)

/-- The receive error that a symbol inside a frame makes after the bytes `l`, if any (R127). -/
def errorAt (l : List Byte) (sym : Symbol) : Option RxError :=
  match sym with
  | .data d =>
    let m := l ++ [d]
    if m.length = 6 ∧ headerCheck (m.take 5) ≠ byteAt m 5 then some .headerCheck
    else if (m.length = 6 ∧ 128 < (byteAt m 4).toNat) ∨ (6 < m.length ∧ (byteAt m 4).toNat + 8 < m.length) then
      some .length
    else none
  | .eof =>
    if l.length < 6 ∨ l.length < (byteAt l 4).toNat + 8 then some .runt
    else if frameCheck (l.take ((byteAt l 4).toNat + 6)) ≠ halfAt l ((byteAt l 4).toNat + 6) then some .frameCheck
    else none
  | .idle => some .runt
  | .align => some .runt
  | .sof => some .runt
  | .invalid => some .code
  | .hold => none
  | .resume => none

/-- What the receiver does after an error at this symbol: between frames after a delimiter, else ignoring (R127). -/
def afterError (sym : Symbol) : Reception :=
  match sym with
  | .data _ => .ignoring
  | .invalid => .ignoring
  | _ => .idle

/-- A port at which error `e` has ended a frame: its counter, and the count of R128. -/
def errorCounted (x : PortRec) (buf : Option BufId) (e : RxError) (rx : Reception) : PortRec :=
  { x with
    rx := rx
    counters :=
      let c := countError e x.counters
      if x.isQuarantine then { c with quarantineDiscard := c.quarantineDiscard + 1 }
      else if buf.isNone then { c with poolEmpty := c.poolEmpty + 1 }
      else c }

/-- A frame's header asks for this gateway: a REQUEST to its station or to 255 (R45). -/
abbrev State.addressed (s : State) (h : Header) : Prop :=
  h.kind = .request ∧ (targetOf h.tag = 0#4 ++ s.straps.station ∨ targetOf h.tag = 255)

/-- A port of the egress set: in the forward set, not the ingress port, and UP (R53). -/
def State.egress (s : State) (p : Port) (set : PortSet) (q : Port) : Bool :=
  set.getLsbD q && q != p && (s.port q).isUp

/-- A port once it has been offered a copy in buffer `b` at local time `t` (R55, R108). -/
def offered (x : PortRec) (b : BufId) (prio : Prio) (t : Instant) : PortRec :=
  if x.queue.length < x.cfg.queueLimit then
    { x with queue := insertEntry { buf := b, prio := prio, time := t, origin := .forwarded } x.queue }
  else { x with counters := { x.counters with queueFull := x.counters.queueFull + 1 } }

/-- Steps 6 and 7 of a frame end, from `u` to `t`: the frame `l` in buffer `b`, received on port `p`, is sent to the
ports of `set` with this priority and tag (R53 to R58). -/
structure Forwarded (u t : State) (p : Port) (b : BufId) (l : List Byte) (set : PortSet) (prio : Prio) (tag : Tag) :
    Prop where
  /-- No route: dropped and counted at the ingress port (R54). -/
  noRoute : (∀ q, u.egress p set q = false) → Released u t p
    { endedGood (u.port p) with
      counters := { (endedGood (u.port p)).counters with noRoute := (u.port p).counters.noRoute + 1 } } [b] u.notices
  /-- Nothing but the ports and the pool changes. -/
  rest : t = { u with ports := t.ports, pool := t.pool }
  /-- Each port of the egress set is offered a copy, and no other port's queue or counters change (R55). -/
  offers : (∃ q, u.egress p set q = true) → ∀ q, q ≠ p → t.port q =
    let x := if u.egress p set q then offered (u.port q) b prio u.localTime else u.port q
    { x with ctl := x.ctl ++ if x.isUp && u.resumed t then [.resume] else [] }
  /-- The ingress port has received a good frame, and no copy of it (R53, R125). -/
  ingress : (∃ q, u.egress p set q = true) → t.port p =
    let x := endedGood (u.port p)
    { x with ctl := x.ctl ++ if x.isUp && u.resumed t then [.resume] else [] }
  /-- The buffer: as many references as copies accepted, and the transmitted header; free without a copy (R56, R58). -/
  bufs : (∃ q, u.egress p set q = true) → ∀ c, t.buf c =
    if c = b then
      let n := (List.finRange 4).countP fun q =>
        u.egress p set q && decide ((u.port q).queue.length < (u.port q).cfg.queueLimit)
      if n = 0 then freeBuffer
      else
        { refs := n
          bytes := headerBytes { headerOf l with prio := prio, tag := tag, hop := (headerOf l).hop - 1 } ++ l.drop 6 }
    else u.buf c
  /-- The pool's hold state (R104). -/
  pool : t.pool = { u.pool with bufs := t.pool.bufs, hold := if u.resumed t then .normal else u.pool.hold }

/-! ### What a taking leaves (R145 to R154) -/

/-- Request `r` is at the head of the request queue of a running, READY Agent, which holds its buffer (R145, R146). -/
abbrev State.headReady (s : State) (r : Taken) : Prop :=
  s.running = true ∧ s.agent.busyUntil = none ∧ s.headRequest = some r ∧ (s.buf r.buf).refs = 1 ∧ s.pool.wf

/-- Request `r`, the next to be taken, is carried out: it is long enough and no retry (R147, R148). -/
abbrev State.carries (s : State) (r : Taken) : Prop :=
  s.headReady r ∧ 3 ≤ r.payload.length ∧ (s.requester r.key).all (fun e => e.seq != r.seq) = true

/-- Request `r`, the next to be taken, is carried out as the command of code `code`, its arguments of the one length
`n` (R149, R200). -/
abbrev State.carriesCommand (s : State) (r : Taken) (code : Byte) (n : Nat) : Prop :=
  s.carries r ∧ r.code = code ∧ r.args.length = n

/-- The other entries of the requester table once requester `k` has its entry: those of the other keys, less the least
recently used unprotected one when `k` is new and the table full (R148, R151). -/
def State.otherRequesters (s : State) (k : Key) : List Requester :=
  if (s.requester k).isSome then s.agent.table.filter fun e => e.key != k
  else if s.agent.table.length < 4 then s.agent.table
  else s.agent.table.eraseP fun e => holderOf s.ctrl != some e.key

/-- A reply to a request from port `p` finds a buffer, and its port accepts it (R99, R108, R154). -/
def State.sendsTo (u : State) (p : Port) : Bool := 1 ≤ u.freeCount && (u.port p).canAccept

/-- The allocation of a reply's buffer enters HOLDING (R102). -/
def State.replyHolds (u : State) : Bool := u.pool.hold == .normal && 1 ≤ u.freeCount && u.freeCount ≤ 12

/-- The releases of a taking that began in `u` leave HOLDING (R104). -/
def State.replyResumes (u t : State) : Bool := u.pool.hold != .normal && 24 ≤ t.freeCount

/-- The control symbols that a taking's reply hands to the transmitters of UP ports (R102, R104). -/
def State.replyControls (u t : State) : List Ctl :=
  if u.replyHolds then [.hold] else if u.replyResumes t then [.resume] else []

/-- The sending of reply `payload` to request `r`, from the state `u` that the command has left to `t` (R154), with the
pool's part in it (R99, R100, R102, R104). -/
structure Delivered (u t : State) (r : Taken) (payload : List Byte) : Prop where
  /-- Nothing changes but the Agent, the ports, the pool and the Notice Unit. -/
  rest : t = { u with agent := t.agent, ports := t.ports, pool := t.pool, notices := t.notices }
  /-- The request's buffer is free. -/
  own : t.buf r.buf = freeBuffer
  /-- A reply accepted stands in a buffer that was free, and its entry in its port's queue. -/
  accepted : u.sendsTo r.port = true → ∃ b, (u.buf b).refs = 0
    ∧ t.buf b = { refs := 1, bytes := replyFrame r payload }
    ∧ (∀ c, c ≠ b → c ≠ r.buf → t.buf c = u.buf c)
    ∧ (t.port r.port).queue
        = insertEntry { buf := b, prio := r.prio, time := u.localTime, origin := .reply } (u.port r.port).queue
  /-- A reply not accepted leaves nothing. -/
  refused : u.sendsTo r.port = false →
    (∀ c, c ≠ r.buf → t.buf c = u.buf c) ∧ (t.port r.port).queue = (u.port r.port).queue
  /-- No port changes but in its queue and in the control symbols handed to it while UP. -/
  ports : ∀ p, t.port p = { u.port p with
    queue := (t.port p).queue
    ctl := (u.port p).ctl ++ if (u.port p).isUp then u.replyControls t else [] }
  /-- No other port's queue changes. -/
  queues : ∀ p, p ≠ r.port → (t.port p).queue = (u.port p).queue
  /-- The free count. -/
  free : t.freeCount = if u.sendsTo r.port then u.freeCount else u.freeCount + 1
  /-- Minimum free. -/
  minFree : t.pool.minFree = if 1 ≤ u.freeCount then min u.pool.minFree (u.freeCount - 1) else u.pool.minFree
  /-- The hold state. -/
  hold : t.pool.hold = if u.replyHolds then .holding (u.localTime + 500)
    else if u.replyResumes t then .normal else u.pool.hold
  /-- The entries into HOLDING. -/
  holdEntries : t.pool.holdEntries = if u.replyHolds then u.pool.holdEntries + 1 else u.pool.holdEntries
  /-- The notice of an entry into HOLDING. -/
  notices : t.notices = if u.replyHolds then
      pushNotice u.notices .poolLow u.cellTime 0 (BitVec.ofNat 16 (u.freeCount - 1))
    else u.notices

/-- The Agent after a taking that answered `r` with `payload`: `c` its counters and `others` the other requesters as the
command left them (R146, R147, R153, R154). -/
def State.answered (u : State) (r : Taken) (c : AgentCounters) (others : List Requester) (queue : List Request)
    (payload : List Byte) : Agent :=
  { queue := queue
    busyUntil := some (u.localTime + 10)
    table := others ++ [{ key := r.key, seq := r.seq, reply := payload, lastUsed := u.localTime }]
    counters := if u.sendsTo r.port then c else { c with replyDropped := c.replyDropped + 1 } }

/-- The Agent's counters with one more taking (R147). -/
def oneMoreTaken (c : AgentCounters) : AgentCounters := { c with requestsTaken := c.requestsTaken + 1 }

/-- The taking of `r` in state `s`, carried out with status `st` and these results by a command that leaves `s` as `u`,
ends in `t` (R146 to R154). -/
def Replied (s u t : State) (r : Taken) (st : Status) (results : List Byte) : Prop :=
  t.agent = u.answered r (oneMoreTaken s.agent.counters) (s.otherRequesters r.key) s.agent.queue.tail
      (replyPayload r st results)
    ∧ Delivered u t r (replyPayload r st results)

/-! ### What commands leave (01, 02, 07, 09) -/

/-- The banks swapped at the commit of holder `k` (R33). -/
def State.swappedFor (s : State) (k : Key) : State :=
  { s with
    active := s.active + 1
    hits := Vector.replicate 64 0
    ctrl := .mirroring 0 s.localTime
    notices := pushNotice s.notices .commitDone s.cellTime (if s.active = 0 then 1 else 0) k.handle }

/-- The results of an edit-session command in a state without a lease to report: controller state, active bank, no time
(R167, R200). -/
def noLeaseResults (code : Byte) (active : Fin 2) : List Byte := [code, if active = 0 then 0 else 1, 0, 0, 0, 0, 0]

/-- The results of an edit-session command that leaves a lease of `d` seconds just begun or renewed (R167, R200). -/
def leasedResults (active : Fin 2) (d : Nat) : List Byte :=
  [1, if active = 0 then 0 else 1, 1] ++ be32 (BitVec.ofNat 32 (d * 1000))

/-- The enable setting's change in a port that has the new configuration, at local time `now` and cell time `time`: the
port, the notices and the references given back (R124, R129, R131, R135). -/
def enableApplied (x : PortRec) (old : Bool) (u : NoticeUnit) (p : Port) (now time : Instant) :
    PortRec × NoticeUnit × List BufId :=
  if x.cfg.enable && !old then
    ({ x with link := match x.link with
        | .disabled => if x.signal then .training 0 else .down
        | l => l }, u, [])
  else if !x.cfg.enable && old then
    let held := match x.rx with
      | .frame (some b) _ => [b]
      | _ => []
    match x.link with
    | .disabled => ({ x with rx := .idle }, u, held)
    | .down => ({ x with link := .disabled, rx := .idle }, u, held)
    | .training _ => ({ x with link := .disabled, rx := .idle }, u, held)
    | .up .. => ({ flushed x with link := .disabled, ctl := [], rx := .idle },
        pushNotice (noticesAfter u x.queue) .portDown time (byteOf p) 0, flushedRefs x ++ held)
    | .quarantine _ =>
      ({ x with
          link := .disabled, rx := .idle
          nextLeak := if x.score = 0 then none else some (now + BitVec.ofNat 32 (x.cfg.leakInterval * 1000)) }, u, held)
  else (x, u, [])

/-- A port given configuration `c` at local time `now` and cell time `time`: the enable setting, the next leak, the warned
flag and the quarantine test, in that order (R131 to R133, R138). -/
def configured (x : PortRec) (c : PortConfig) (u : NoticeUnit) (p : Port) (now time : Instant) :
    PortRec × NoticeUnit × List BufId :=
  let a := enableApplied { x with cfg := c } x.cfg.enable u p now time
  let y := if c.leakInterval = x.cfg.leakInterval then a.1
    else { a.1 with nextLeak := a.1.nextLeak.map fun _ => now + BitVec.ofNat 32 (c.leakInterval * 1000) }
  let z := { y with warned := warnedAfter y }
  let v := warnedNotices a.2.1 p y z time
  if (z.isUp || z.isTraining) && c.quarantineThreshold ≤ z.score then
    (quarantined z (now + BitVec.ofNat 32 (c.quarantineHold * 100000)),
      pushNotice (if z.isUp then noticesAfter v z.queue else v) .portQuarantined time (byteOf p)
        (BitVec.ofNat 16 z.score),
      a.2.2 ++ if z.isUp then flushedRefs z else [])
  else (z, v, a.2.2)

end Sys2Proof.Machine
end

