-- ==== Sys2Proof/Certificates/Slice0/Obligations.lean ====
section
/-! DEFINITION. The statements for the provers, in the order of the manual's chapters: the queue of commands, the lines
and lanes, the ports, the frames, the flows, the pool and the queues, the banks, the Agent and its commands, the notices,
and what every step keeps. -/

open Sys2Proof Sys2Proof.Machine

/-! ### The queue of commands, the part's own course, and the lines -/

/-- A step takes the command at the front of the queue and is that command's meaning on the rest (the interface of a
block; log 1). -/
def Obligations.StepRunsTheFrontCommand : Prop :=
  ∀ (c : Instr) (rest : List Instr) (s : State),
    step { s with pending := c :: rest } = exec c { s with pending := rest }

/-- Every command answers a next state, and none touches the queue of commands (log 1, log 4). Only the RESET line
changes the latched straps or what local time is; only ADJUST_TIME and the RESET line the offset; only a swap's
commands, FULL and the RESET line the active bank (R21, R64, R65, R157, R204). -/
def Obligations.EveryCommandAnswersAndKeepsTheClock : Prop :=
  (∀ (c : Instr) (s : State), ∃ t, exec c s = .next t ∧ t.pending = s.pending)
  ∧ (∀ (c : Instr) (s t : State), exec c s = .next t → c ≠ .resetHeld → (∀ st lanes, c ≠ .powerOn st lanes) →
    t.running = s.running ∧ t.straps = s.straps ∧ t.localTime = s.localTime ∧ t.phase = s.phase
    ∧ (c ≠ .adjustTime → t.offset = s.offset)
    ∧ (c ≠ .adjustTime → c ≠ .commitNow → c ≠ .commitAt → c ≠ .activation → c ≠ .resetFull →
        t.active = s.active ∧ t.activeBank = s.activeBank))

/-- With no command waiting a step takes the happening that is due; and with none due one symbol time passes: the
transmitter of every UP port sends a control symbol handed to it, or else the next symbol of its frame, and the 50th
symbol time advances local time (R64, R105, R111; log 1, log 20). A frame whose buffer a FULL reset took then goes on
without one (R117, R143; log 29). Time does not pass a happening that is due: before a symbol time passes in a running
part, no transmission is over, no timer of a port, of a flow, of the bank controller, of the pool or of the Agent has
run out, no request waits for a READY Agent, no port can select, and no notice can be built. That the part runs on
with an empty queue, and its order among due happenings, are the model's choices (log 1, log 5). -/
def Obligations.ThePartRunsOnWithAnEmptyQueue : Prop :=
  (∀ s : State, s.pending = [] →
    (∀ c, s.due = some c → step s = exec c s)
    ∧ (s.due = none → s.running = true → ∃ t, step s = .next t
        ∧ t = { s with ports := t.ports, localTime := t.localTime, phase := t.phase }
        ∧ (s.phase < 49 → t.phase = s.phase + 1 ∧ t.localTime = s.localTime)
        ∧ (49 ≤ s.phase → t.phase = 0 ∧ t.localTime = s.localTime + 1)
        ∧ ∀ p, ((s.port p).isUp = false → t.port p = s.port p)
          ∧ ((s.port p).isUp = true →
              (∀ c cs, (s.port p).ctl = c :: cs → t.port p =
                { s.port p with ctl := cs, rx := (s.port p).rx.later })
              ∧ ((s.port p).ctl = [] → ∀ x, (s.port p).tx = some x →
                  t.port p = { s.port p with tx := some { x with left := x.left - 1 }, rx := (s.port p).rx.later })
              ∧ ((s.port p).ctl = [] → (s.port p).tx = none → t.port p =
                { s.port p with rx := (s.port p).rx.later })))
    ∧ (s.due = none → s.running = false → step s = .next s))
  ∧ (∀ s : State, s.running = true → s.due = none →
    (∀ p, s.transmissionOver p = false ∧ s.quarantineDue p = false ∧ s.leakDue p = false ∧ s.holdExpiryDue p = false
      ∧ (s.port p).canSelect = false)
    ∧ (∀ i, s.expiredDeadline i = none ∧ s.fillUpDue i = false)
    ∧ s.bankDue = none ∧ s.poolDue = none ∧ s.busyOver = false
    ∧ (∀ e ∈ s.agent.table, s.entryExpired e = false)
    ∧ (s.agent.busyUntil = none → s.agent.queue = [])
    ∧ (s.sendCondition = true → s.freeCount = 0))

/-- The rising edge of RESET_N puts every block at its power-on state, with the straps and the lanes' signals as they
are at the edge (R20, R40, R83, R96, R115, R142, R160, R196, R204); the commands that wait go on waiting (log 3, log
20). -/
def Obligations.PowerOnSetsEveryBlock : Prop :=
  ∀ (st : Straps) (lanes : PortSet) (s : State), ∃ t, exec (.powerOn st lanes) s = .next t
    ∧ t.running = true ∧ t.straps = st ∧ t.localTime = 0 ∧ t.offset = 0 ∧ t.phase = 0 ∧ t.pending = s.pending
    ∧ t.ctrl = .free ∧ t.active = 0
    ∧ (∀ b i, (t.banks.get b).entries.get i =
        { valid := false, matchValue := 0, matchMask := 0, ingress := 0, kinds := 0, lo := 0, hi := 0
          action := .drop, flow := none })
    ∧ (∀ b, (t.banks.get b).miss = if st.missFlood then .flood else .drop)
    ∧ (∀ i, t.hits.get i = 0)
    ∧ (∀ p, t.port p =
        { signal := lanes.getLsbD p
          link := if lanes.getLsbD p then .training 0 else .down
          score := 0, warned := false, nextLeak := none, rx := .idle
          cfg :=
            { enable := true, accepts := !st.mgmtP0Only || p == 0, queueLimit := 48, ageLimit := 32
              warnThreshold := 64, quarantineThreshold := 192, leakInterval := 10, holdLimit := 10
              quarantineHold := 10 }
          counters := zeroPortCounters, queue := [], tx := none, ctl := [] })
    ∧ (∀ b, t.buf b = { refs := 0, bytes := [] })
    ∧ t.freeCount = 96 ∧ t.pool.minFree = 96 ∧ t.pool.hold = .normal ∧ t.pool.holdEntries = 0
    ∧ (∀ i, t.flow i =
        { cfg :=
            { period := 100, tolerance := 0, lossLimit := 1, rate := 0, burst := 1, overAction := .drop
              notifyLate := false, notifyLost := false, notifyRecovered := false }
          state := .unused, missCount := 0, deadline := none, lastArrival := none, tokens := 0, lastRefill := 0
          passed := 0, policed := 0, early := 0, lateEvents := 0 })
    ∧ t.agent = { queue := [], busyUntil := none, table := [], counters := zeroAgentCounters }
    ∧ t.notices =
        { queue := [{ seq := 0, kind := .restarted, time := 0, subject := 0, detail := 0 }], nextSeq := 1, lost := 0
          cfg := { dest := 0, tag := 0, prio := 7, mask := 0xFFF }, waiting := none }

/-- After power-on the Bank Controller is FREE, bank 0 is active, every position of both banks holds the cleared
entry, each miss record follows the MISS_FLOOD strap, the 64 hit counters are 0, and no notice of the Bank Controller
is raised (R40). -/
def Obligations.PowerOnLeavesTheBanksCleared : Prop :=
  ∀ (st : Straps) (lanes : PortSet) (s : State), ∃ t, exec (.powerOn st lanes) s = .next t
    ∧ t.ctrl = .free ∧ t.active = 0
    ∧ (∀ b i, (t.banks.get b).entries.get i =
        { valid := false, matchValue := 0, matchMask := 0, ingress := 0, kinds := 0, lo := 0, hi := 0
          action := .drop, flow := none })
    ∧ (∀ b, (t.banks.get b).miss = if st.missFlood then .flood else .drop)
    ∧ (∀ i, t.hits.get i = 0)
    ∧ ∀ r ∈ t.notices.queue, r.kind ≠ .commitDone ∧ r.kind ≠ .leaseExpired

/-- While RESET_N is low the part does not run: local time is 0, the lanes are silent, FAULT is deasserted, the
latched straps and the commands that wait are kept; and no command but the line's own two changes anything, and
nothing is due (R204; what else is cleared while RESET_N is low is the model's choice, log 15). -/
def Obligations.NothingHappensInReset : Prop :=
  (∀ s : State, ∃ t, exec .resetHeld s = .next t
    ∧ t.running = false ∧ t.localTime = 0 ∧ t.straps = s.straps ∧ t.pending = s.pending
    ∧ t.faultN = true ∧ ∀ p, t.txSymbol p = none)
  ∧ (∀ (c : Instr) (s : State), s.running = false → c ≠ .resetHeld → (∀ st lanes, c ≠ .powerOn st lanes) →
    exec c s = .next s ∧ s.due = none)

/-- A happening commanded when it is not due changes nothing: no timer has run out, no selection is possible, no
transmission is over, no request is next to be taken, or the one that is belongs to another row. This is the model's
choice for a command that names no happening (log 4, log 8). -/
def Obligations.WhatIsNotDueChangesNothing : Prop :=
  ∀ (p : Port) (i : FlowIx) (s : State),
    (s.leakDue p = false → exec (.leak p) s = .next s)
    ∧ (s.holdExpiryDue p = false → exec (.holdExpiry p) s = .next s)
    ∧ (s.quarantineDue p = false → exec (.quarantineEnd p) s = .next s)
    ∧ ((s.port p).canSelect = false → exec (.selection p) s = .next s)
    ∧ (s.transmissionOver p = false → exec (.transmissionEnd p) s = .next s)
    ∧ (s.expiredDeadline i = none → exec (.deadlineExpiry i) s = .next s)
    ∧ (s.fillUpDue i = false → exec (.fillUp i) s = .next s)
    ∧ (s.bankDue = none → ∀ c ∈ [Instr.leaseExpiry, .activation, .mirrorStep], exec c s = .next s)
    ∧ (s.poolDue = none → exec .holdRepeat s = .next s)
    ∧ (s.busyOver = false → exec .agentReady s = .next s)
    ∧ ∀ c ∈ [Instr.malformed, .replay, .unknownCommand, .identify, .readCountersPort, .readCountersPool,
        .readCountersAgent, .readCountersRules, .adjustTime, .openEdit, .writeRule, .clearRules, .writeMiss, .readRules,
        .commitNow, .commitAt, .abandon, .writeFlow, .readFlow, .setPort, .readPort, .releasePort, .setNotices,
        .resetTraffic, .resetFull],
        s.takingDue ≠ some c → exec c s = .next s

/-- FAULT is asserted exactly while a port is in QUARANTINE or a flow is LOST (R195); the lane of a port sends nothing
in DISABLED, ALIGN in DOWN and TRAINING, IDLE in QUARANTINE, and in UP a control symbol handed to it, else IDLE unless
a frame is being sent (R105, R118). -/
def Obligations.TheLinesShowTheState : Prop :=
  ∀ s : State, s.running = true →
    (s.faultN = false ↔ (∃ p, (s.port p).isQuarantine = true) ∨ ∃ i, (s.flow i).state = .lost)
    ∧ ∀ p, ((s.port p).link = .disabled → s.txSymbol p = none)
      ∧ ((s.port p).link = .down ∨ (s.port p).isTraining = true → s.txSymbol p = some .align)
      ∧ ((s.port p).isQuarantine = true → s.txSymbol p = some .idle)
      ∧ ((s.port p).isUp = true →
        (∀ cs, (s.port p).ctl = .hold :: cs → s.txSymbol p = some .hold)
        ∧ (∀ cs, (s.port p).ctl = .resume :: cs → s.txSymbol p = some .resume)
        ∧ ((s.port p).ctl = [] → (s.port p).tx = none → s.txSymbol p = some .idle)
        ∧ (∀ x, (s.port p).ctl = [] → (s.port p).tx = some x →
          (x.left = (wireBytes (s.buf x.buf).bytes).length + 2 → s.txSymbol p = some .sof)
          ∧ (x.left = 1 → s.txSymbol p = some .eof)
          ∧ ∀ k, k < (wireBytes (s.buf x.buf).bytes).length → x.left = k + 2 →
            s.txSymbol p = some (.data (byteAt (wireBytes (s.buf x.buf).bytes)
              ((wireBytes (s.buf x.buf).bytes).length - 1 - k)))))

/-! ### The lanes and the port states -/

/-- A signal that appears moves a DOWN port to TRAINING, or to QUARANTINE when the score kept is at its threshold, and
is noted in every other state (R120, R121, R133; that an entry to QUARANTINE drops the control symbols handed to its
transmitter is the model's inference, log 19). A signal that disappears takes a TRAINING port to DOWN, is noted in
DISABLED and DOWN, and takes a QUARANTINE port to DOWN with its score kept, its leak resumed, and a reception in
progress counted RUNT and QUARANTINE_DISCARD without a weight (R120, R129, R131, R135). -/
def Obligations.SignalsMoveThePort : Prop :=
  (∀ (p : Port) (s : State), s.running = true →
    let x := { s.port p with signal := true }
    ((s.port p).link = .down → (∀ b l, x.rx ≠ .frame b l) →
      (x.score < x.cfg.quarantineThreshold → exec (.signalDetected p) s = .next (s.setPort p (training x)))
      ∧ (x.cfg.quarantineThreshold ≤ x.score → exec (.signalDetected p) s = .next
          { s.setPort p (quarantined (training x) (s.localTime + BitVec.ofNat 32 (x.cfg.quarantineHold * 100000))) with
            notices := pushNotice s.notices .portQuarantined s.cellTime (byteOf p) (BitVec.ofNat 16 x.score) }))
    ∧ ((s.port p).link ≠ .down → exec (.signalDetected p) s = .next (s.setPort p x)))
  ∧ (∀ (p : Port) (s : State), s.running = true →
    let x := { s.port p with signal := false }
    (((s.port p).link = .disabled ∨ (s.port p).link = .down) → exec (.signalLost p) s = .next (s.setPort p x))
    ∧ ((s.port p).isTraining = true → exec (.signalLost p) s = .next (s.setPort p { x with link := .down }))
    ∧ ∀ e, (s.port p).link = .quarantine e →
        let y := { x with
          link := .down
          nextLeak := if x.score = 0 then none
            else some (s.localTime + BitVec.ofNat 32 (x.cfg.leakInterval * 1000)) }
        (∀ b l, x.rx.inside = some (b, l) → ∃ t, exec (.signalLost p) s = .next t
          ∧ Released s t p
              { y with
                rx := .idle
                counters := { x.counters with
                  rxRunt := x.counters.rxRunt + 1
                  quarantineDiscard := x.counters.quarantineDiscard + 1 } } b.toList s.notices)
        ∧ (x.rx.inside = none → exec (.signalLost p) s = .next (s.setPort p { y with rx := .idle })))

/-- A signal that disappears takes an UP port DOWN: its queue is flushed and its transmission aborted, a frame being
received is a RUNT of weight 2, and PORT_DOWN is raised with detail 1 (R114, R123, R127 to R129, R132). That the
control symbols handed to its transmitter and not yet sent are dropped is the model's inference (log 19). -/
def Obligations.SignalLossTakesUpDown : Prop :=
  ∀ (p : Port) (s : State), s.running = true → (s.port p).isUp = true →
    let x := { flushed { s.port p with signal := false } with link := .down, ctl := [] }
    let n := pushNotice (noticesAfter s.notices (s.port p).queue) .portDown s.cellTime (byteOf p) 1
    (∀ b l, (s.port p).rx.inside = some (b, l) → ∃ t, exec (.signalLost p) s = .next t
      ∧ let y := risen { x with
            rx := .idle
            counters := { x.counters with
              rxRunt := x.counters.rxRunt + 1
              poolEmpty := if b.isSome then x.counters.poolEmpty else x.counters.poolEmpty + 1 } } 2
          (s.localTime + BitVec.ofNat 32 (x.cfg.leakInterval * 1000))
        Released s t p y (flushedRefs (s.port p) ++ b.toList) (warnedNotices n p x y s.cellTime))
    ∧ ((s.port p).rx.inside = none → ∃ t, exec (.signalLost p) s = .next t
      ∧ Released s t p { x with rx := .idle } (flushedRefs (s.port p)) n)

/-- In TRAINING a valid symbol advances the training count, the 64th in a row takes the port UP with PORT_UP and a
HOLD while the pool is HOLDING, and an invalid one sets the count to 0 (R103, R121). -/
def Obligations.TrainingCountsValidSymbols : Prop :=
  ∀ (p : Port) (code : BitVec 10) (n : Nat) (s : State), s.running = true → (s.port p).link = .training n →
    (decodeSymbol code ≠ .invalid → n + 1 < 64 →
      exec (.trainingSymbol p code) s = .next (s.setPort p { s.port p with link := .training (n + 1) }))
    ∧ (decodeSymbol code ≠ .invalid → 64 ≤ n + 1 → exec (.trainingSymbol p code) s = .next
        { s.setPort p { s.port p with
            link := .up 0 none
            rx := .idle
            ctl := (s.port p).ctl ++ if s.pool.hold = .normal then [] else [.hold] } with
          notices := pushNotice s.notices .portUp s.cellTime (byteOf p) (BitVec.ofNat 16 (s.port p).score) })
    ∧ (decodeSymbol code = .invalid →
      exec (.trainingSymbol p code) s = .next (s.setPort p { s.port p with link := .training 0 }))

/-- An invalid symbol in UP advances the invalid run, and the fourth in a row loses lock, for TRAINING and PORT_DOWN
with detail 2, its queue flushed (R114, R122, R123). Inside a frame it is also the receive error CODE, of weight 1,
which may first enter QUARANTINE; then no lock is lost (R122, R127, R128, R133). In QUARANTINE it is CODE without a
weight inside a frame, and nothing between frames (R126, R128, R134). That the control symbols handed to a transmitter
are dropped when its port leaves UP is the model's inference (log 19), and so is the one hold decision for all that is
given back (log 14). -/
def Obligations.InvalidSymbolsLoseLock : Prop :=
  (∀ (p : Port) (run : Nat) (held : Option Instant) (s : State), s.running = true → (s.port p).link = .up run held →
    (s.port p).rx.inside = none → (s.port p).score < (s.port p).cfg.quarantineThreshold →
    (run + 1 < 4 → exec (.invalidSymbol p) s = .next (s.setPort p { s.port p with link := .up (run + 1) held }))
    ∧ (4 ≤ run + 1 → ∃ t, exec (.invalidSymbol p) s = .next t
      ∧ Released s t p { training (flushed (s.port p)) with ctl := [] } (flushedRefs (s.port p))
          (pushNotice (noticesAfter s.notices (s.port p).queue) .portDown s.cellTime (byteOf p) 2)))
  ∧ (∀ (p : Port) (run : Nat) (held : Option Instant) (b : Option BufId) (l : List Byte) (s : State),
    s.running = true → (s.port p).link = .up run held → (s.port p).rx.inside = some (b, l) →
    let r := scored (errorCounted (s.port p) b .code .ignoring) s.notices p 1 s.localTime s.cellTime
    ∃ t, exec (.invalidSymbol p) s = .next t
      ∧ (r.1.isUp = false → Released s t p r.1 (b.toList ++ r.2.2) r.2.1)
      ∧ (r.1.isUp = true → run + 1 < 4 →
          Released s t p { r.1 with link := .up (run + 1) held } (b.toList ++ r.2.2) r.2.1)
      ∧ (r.1.isUp = true → 4 ≤ run + 1 →
          Released s t p { training (flushed r.1) with ctl := [] } (b.toList ++ flushedRefs r.1)
            (pushNotice (noticesAfter r.2.1 r.1.queue) .portDown s.cellTime (byteOf p) 2)))
  ∧ (∀ (p : Port) (s : State), s.running = true → (s.port p).isQuarantine = true →
    (∀ b l, (s.port p).rx.inside = some (b, l) → ∃ t, exec (.invalidSymbol p) s = .next t
      ∧ Released s t p (errorCounted (s.port p) b .code .ignoring) b.toList s.notices)
    ∧ ((s.port p).rx.inside = none → exec (.invalidSymbol p) s = .next s))

/-- HOLD and RESUME in UP set and clear the partner hold, which lasts the hold limit in steps of 100 µs and ends at
its expiry; both end an invalid run (R122, R137). That a hold expiry commanded before its instant, or with no partner
hold, changes nothing is the model's choice (log 4). -/
def Obligations.PartnerHoldStartsAndEnds : Prop :=
  ∀ (p : Port) (run : Nat) (held : Option Instant) (s : State), s.running = true → (s.port p).link = .up run held →
    exec (.holdReceived p) s = .next (s.setPort p { s.port p with
        link := .up 0 (some (s.localTime + BitVec.ofNat 32 ((s.port p).cfg.holdLimit * 100))) })
    ∧ exec (.resumeReceived p) s = .next (s.setPort p { s.port p with link := .up 0 none })
    ∧ (∀ e, held = some e → (s.localTime - e).toNat < 2 ^ 31 →
        exec (.holdExpiry p) s = .next (s.setPort p { s.port p with link := .up run none }))
    ∧ (∀ e, held = some e → 2 ^ 31 ≤ (s.localTime - e).toNat → exec (.holdExpiry p) s = .next s)
    ∧ (held = none → exec (.holdExpiry p) s = .next s)

/-- A symbol has the one meaning its port's state gives it, whichever row brings it (the model's choice, log 6): none
in DISABLED and DOWN, one more of the count in TRAINING, and HOLD and RESUME none in QUARANTINE (R119, R121, R125,
R137). -/
def Obligations.SymbolsFollowThePortState : Prop :=
  ∀ (p : Port) (s : State), s.running = true →
    ((s.port p).link = .disabled ∨ (s.port p).link = .down →
      ∀ c ∈ [Instr.sofReceived p, .frameEnd p, .invalidSymbol p, .holdReceived p, .resumeReceived p],
        exec c s = .next s ∧ (∀ d, exec (.dataByteReceived p d) s = .next s)
          ∧ (∀ x, exec (.receiveError p x) s = .next s) ∧ ∀ x, exec (.trainingSymbol p x) s = .next s)
    ∧ (∀ n, (s.port p).link = .training n → n + 1 < 64 →
      (∀ c ∈ [Instr.sofReceived p, .frameEnd p, .holdReceived p, .resumeReceived p],
        exec c s = .next (s.setPort p { s.port p with link := .training (n + 1) }))
      ∧ (∀ d, exec (.dataByteReceived p d) s = .next (s.setPort p { s.port p with link := .training (n + 1) }))
      ∧ exec (.invalidSymbol p) s = .next (s.setPort p { s.port p with link := .training 0 }))
    ∧ (∀ e, (s.port p).link = .quarantine e →
      exec (.holdReceived p) s = .next s ∧ exec (.resumeReceived p) s = .next s)

/-! ### The reception of frames -/

/-- SOF between frames begins a reception: in UP with a buffer when at least 5 are free, else with none, which changes
nothing in the pool; in QUARANTINE always without one (R98, R102, R125). In UP and in QUARANTINE alike, a data byte
inside a frame that makes no error is counted, and written behind the others into the buffer, where there is one;
between frames it is ignored (R98, R125 to R127, R134). Which free buffer is taken cannot be seen (R96, log 9). -/
def Obligations.SofAndBytesAreReceived : Prop :=
  (∀ (p : Port) (s : State), s.running = true → (s.port p).rx.inside = none →
    ((s.port p).isUp = true → 5 ≤ s.freeCount → ∃ b t,
        Allocated (s.setPort p (lockHeld (s.port p))) t b
        ∧ exec (.sofReceived p) s = .next (t.setPort p { t.port p with rx := .frame (some b) [] }))
    ∧ ((s.port p).isUp = true → s.freeCount < 5 →
        exec (.sofReceived p) s = .next (s.setPort p { lockHeld (s.port p) with rx := .frame none [] }))
    ∧ ((s.port p).isQuarantine = true →
        exec (.sofReceived p) s = .next (s.setPort p { s.port p with rx := .frame none [] })))
  ∧ (∀ (p : Port) (d : Byte) (s : State), s.running = true →
    (s.port p).isUp = true ∨ (s.port p).isQuarantine = true →
    (∀ b l, (s.port p).rx = .frame (some b) l → errorAt l (.data d) = none →
      exec (.dataByteReceived p d) s = .next
        ((s.setPort p { lockHeld (s.port p) with rx := .frame (some b) (l ++ [d]) }).setBuf b
          { s.buf b with bytes := (s.buf b).bytes ++ [d] }))
    ∧ (∀ l, (s.port p).rx.inside = some (none, l) → errorAt l (.data d) = none →
      exec (.dataByteReceived p d) s = .next (s.setPort p { lockHeld (s.port p) with rx := .frame none (l ++ [d]) }))
    ∧ ((s.port p).rx.inside = none →
      exec (.dataByteReceived p d) s = .next (s.setPort p (lockHeld (s.port p)))))

/-- A receive error in UP ends the frame: its counter advances, POOL_EMPTY too for a frame without a buffer, the
buffer is given back, the score rises by the error's weight, and a score at the quarantine threshold enters QUARANTINE
(R127, R128, R130 to R133). In QUARANTINE it is counted, with QUARANTINE_DISCARD, and weighs nothing (R128, R134). An
SOF inside a frame ends it as a RUNT and then begins another: in UP with a buffer when the port is still UP and at
least 5 are then free, in QUARANTINE with none (R125 to R128, R134). The hold state's place between the two, and that
an entry to QUARANTINE drops the control symbols handed to the transmitter, are the model's inferences (log 14, log
19). -/
def Obligations.ReceiveErrorsEndAFrame : Prop :=
  (∀ (p : Port) (sym : Symbol) (b : Option BufId) (l : List Byte) (e : RxError) (s : State),
    s.running = true → (s.port p).isUp = true → (s.port p).rx.inside = some (b, l) →
    sym ≠ .sof → sym ≠ .invalid → errorAt l sym = some e →
    ∃ t, exec (.receiveError p sym) s = .next t
      ∧ let w := match e with | .headerCheck => 4 | .length => 2 | .runt => 2 | .frameCheck => 4 | .code => 1
        let r := scored (errorCounted (lockHeld (s.port p)) b e (afterError sym)) s.notices p w s.localTime s.cellTime
        Released s t p r.1 (b.toList ++ r.2.2) r.2.1)
  ∧ (∀ (p : Port) (sym : Symbol) (b : Option BufId) (l : List Byte) (e : RxError) (s : State),
    s.running = true → (s.port p).isQuarantine = true → (s.port p).rx.inside = some (b, l) →
    sym ≠ .sof → errorAt l sym = some e →
    ∃ t, exec (.receiveError p sym) s = .next t
      ∧ Released s t p (errorCounted (s.port p) b e (afterError sym)) b.toList s.notices)
  ∧ (∀ (p : Port) (b : Option BufId) (l : List Byte) (s : State),
    s.running = true → (s.port p).isUp = true → (s.port p).rx.inside = some (b, l) →
    ∃ t, (let r := scored (errorCounted (lockHeld (s.port p)) b .runt .idle) s.notices p 2 s.localTime s.cellTime
          Released s t p r.1 (b.toList ++ r.2.2) r.2.1)
      ∧ ((t.port p).isUp = true → 5 ≤ t.freeCount → ∃ c u, Allocated t u c
          ∧ exec (.receiveError p .sof) s = .next (u.setPort p { u.port p with rx := .frame (some c) [] }))
      ∧ ((t.port p).isUp = false ∨ t.freeCount < 5 →
          exec (.receiveError p .sof) s = .next (t.setPort p { t.port p with rx := .frame none [] })))
  ∧ (∀ (p : Port) (b : Option BufId) (l : List Byte) (s : State),
    s.running = true → (s.port p).isQuarantine = true → (s.port p).rx.inside = some (b, l) →
    ∃ t, Released s t p (errorCounted (s.port p) b .runt .idle) b.toList s.notices
      ∧ exec (.receiveError p .sof) s = .next (t.setPort p { t.port p with rx := .frame none [] }))

/-- A good frame that has no buffer counts POOL_EMPTY in UP; in QUARANTINE every good frame counts QUARANTINE_DISCARD
and its buffer is given back; neither reaches the Classifier (R128, R134). A frame not captured is dropped, counted
and its buffer given back, when its hop is 0, when it matches no entry and the miss record is DROP, and when a DROP
entry without a flow wins, which counts a hit (R18, R47, R49, R50, R56). -/
def Obligations.FramesAreDroppedAndCounted : Prop :=
  (∀ (p : Port) (b : Option BufId) (l : List Byte) (s : State), s.running = true →
    (s.port p).rx.inside = some (b, l) → goodFrame l →
    ((s.port p).isUp = true → (s.port p).rx = .frame none l → exec (.frameEnd p) s = .next (s.setPort p { lockHeld (s.port p) with
        rx := .idle, counters := { (s.port p).counters with poolEmpty := (s.port p).counters.poolEmpty + 1 } }))
    ∧ ((s.port p).isQuarantine = true → ∃ t, exec (.frameEnd p) s = .next t
      ∧ Released s t p { s.port p with
          rx := .idle
          counters := { (s.port p).counters with quarantineDiscard := (s.port p).counters.quarantineDiscard + 1 } }
          b.toList s.notices))
  ∧ (∀ (p : Port) (b : BufId) (l : List Byte) (s : State), s.receiving p b l → goodFrame l →
    ¬ s.addressed (headerOf l) →
    let x := endedGood (s.port p)
    ((headerOf l).hop = 0 → ∃ t, exec (.frameEnd p) s = .next t
      ∧ Released s t p
          { x with counters := { x.counters with hopExpired := x.counters.hopExpired + 1 } } [b] s.notices)
    ∧ ((headerOf l).hop ≠ 0 → lookupIn s.activeBank p (headerOf l) = .miss .drop →
      ∃ t, exec (.frameEnd p) s = .next t
      ∧ Released s t p { x with counters := { x.counters with missDrop := x.counters.missDrop + 1 } } [b] s.notices)
    ∧ (∀ i e, (headerOf l).hop ≠ 0 → lookupIn s.activeBank p (headerOf l) = .hit i e → e.action = .drop →
      e.flow = none → ∃ t, exec (.frameEnd p) s = .next t
      ∧ Released { s with hits := s.hits.set i (s.hits.get i + 1) } t p
          { x with counters := { x.counters with ruleDrop := x.counters.ruleDrop + 1 } } [b] s.notices))

/-- A request for this gateway is captured: it joins the request queue when that holds fewer than 4, with its buffer;
else OVERFLOW counts it; and a port that accepts no management counts it MGMT_REFUSED (R45, R46, R56). -/
def Obligations.OwnRequestsAreCaptured : Prop :=
  ∀ (p : Port) (b : BufId) (l : List Byte) (s : State), s.receiving p b l → goodFrame l →
    s.addressed (headerOf l) →
    ((s.port p).cfg.accepts = true → s.agent.queue.length < 4 → exec (.frameEnd p) s = .next
      { s.setPort p (endedGood (s.port p)) with
        agent := { s.agent with queue := s.agent.queue ++ [{ buf := b, port := p }] } })
    ∧ ((s.port p).cfg.accepts = true → 4 ≤ s.agent.queue.length → ∃ t, exec (.frameEnd p) s = .next t
      ∧ Released { s with agent := { s.agent with
            counters := { s.agent.counters with overflow := s.agent.counters.overflow + 1 } } }
          t p (endedGood (s.port p)) [b] s.notices)
    ∧ ((s.port p).cfg.accepts = false → ∃ t, exec (.frameEnd p) s = .next t
      ∧ Released s t p
          { endedGood (s.port p) with counters :=
            { (endedGood (s.port p)).counters with mgmtRefused := (s.port p).counters.mgmtRefused + 1 } }
          [b] s.notices)

/-- A frame that is forwarded: the FLOOD of a miss to all four ports as received, and a FORWARD entry without a flow
to its set with its modifiers, which counts a hit (R18, R49, R51, R53 to R58). No frame received on a port is placed
on that port's queue or in its transmitter, whatever rules and flows say (R53). -/
def Obligations.FramesAreForwarded : Prop :=
  (∀ (p : Port) (b : BufId) (l : List Byte) (s : State), s.receiving p b l → goodFrame l →
    ¬ s.addressed (headerOf l) → (headerOf l).hop ≠ 0 →
    (lookupIn s.activeBank p (headerOf l) = .miss .flood → ∃ t, exec (.frameEnd p) s = .next t
      ∧ Forwarded s t p b l 0xF (headerOf l).prio (headerOf l).tag)
    ∧ (∀ i e set newPrio rewrite, lookupIn s.activeBank p (headerOf l) = .hit i e → e.flow = none →
      e.action = .forward set newPrio rewrite → ∃ t, exec (.frameEnd p) s = .next t
      ∧ Forwarded { s with hits := s.hits.set i (s.hits.get i + 1) } t p b l set
          (newPrio.getD (headerOf l).prio) (rewriteTag rewrite (headerOf l).tag)))
  ∧ (∀ (p : Port) (b : BufId) (l : List Byte) (s t : State), s.receiving p b l → goodFrame l →
    exec (.frameEnd p) s = .next t → (t.port p).queue = (s.port p).queue ∧ (t.port p).tx = (s.port p).tx)

/-! ### Matching and rewriting -/

/-- The tag condition compares exactly the bits under the match mask; with a mask of 0 it holds for every tag, and
with a full mask for one; tags that agree under the mask are treated alike (R3). -/
def Obligations.TagConditionComparesMaskedBits : Prop :=
  ∀ (e : RuleEntry) (t : Tag), e.matchValue &&& ~~~e.matchMask = 0 →
    (tagCondition e t = true ↔ t &&& e.matchMask = e.matchValue)
    ∧ (tagCondition e t = true ↔ ∀ i, i < 24 → e.matchMask.getLsbD i = true → t.getLsbD i = e.matchValue.getLsbD i)
    ∧ (∀ u : Tag, (∀ i, i < 24 → e.matchMask.getLsbD i = true → u.getLsbD i = t.getLsbD i) →
        tagCondition e u = tagCondition e t)
    ∧ (e.matchMask = 0 → tagCondition e t = true)
    ∧ (e.matchMask = 0xFFFFFF → (tagCondition e t = true ↔ t = e.matchValue))

/-- A lookup hits at a position exactly when its entry matches and none below it does, and misses exactly when none of
the 64 matches, with the bank's miss record (R4, R5, R7, R8). -/
def Obligations.LookupTakesTheLowestMatch : Prop :=
  ∀ (k : Bank) (p : Port) (h : Header),
    let matchesAt := fun i : RulePos =>
      (k.entries.get i).valid = true ∧ h.tag &&& (k.entries.get i).matchMask = (k.entries.get i).matchValue
        ∧ (k.entries.get i).ingress.getLsbD p = true ∧ (k.entries.get i).kinds.getLsbD (kindCode h.kind).toNat = true
        ∧ (k.entries.get i).lo ≤ h.prio ∧ h.prio ≤ (k.entries.get i).hi
    (∀ i e, lookupIn k p h = .hit i e ↔ (e = k.entries.get i ∧ matchesAt i ∧ ∀ j, j < i → ¬ matchesAt j))
    ∧ (∀ m, lookupIn k p h = .miss m ↔ (m = k.miss ∧ ∀ i, ¬ matchesAt i))

/-- A present tag rewrite gives the bits under the mask the value's bits and keeps the others as received; an absent
one keeps them all (R12). -/
def Obligations.RewriteReplacesTheMaskedBits : Prop :=
  ∀ (w : Rewrite) (t : Tag), w.value &&& ~~~w.mask = 0 →
    (∀ i, i < 24 → (rewriteTag (some w) t).getLsbD i = if w.mask.getLsbD i then w.value.getLsbD i else t.getLsbD i)
    ∧ rewriteTag (some w) t = (t &&& ~~~w.mask) ||| w.value
    ∧ rewriteTag none t = t

/-! ### Flows -/

/-- Cadence at a frame end at instant t: nothing in UNUSED; else ON_TIME, the deadline a period and a tolerance on,
the last arrival now; EARLY counts in ON_TIME alone, a frame before the last arrival plus the period less the
tolerance; and the recovery of a LATE or LOST flow is notified with its miss count when its flag is set (R69 to R71).
-/
def Obligations.FrameEndObservesTheCadence : Prop :=
  ∀ (t : Instant) (f : FlowEntry),
    let g := { f with
      state := .onTime, missCount := 0, deadline := some (t + f.cfg.period + f.cfg.tolerance), lastArrival := some t }
    (f.state = .unused → observe t f = (f, none))
    ∧ (f.state = .armed → observe t f = (g, none))
    ∧ (∀ a, f.state = .onTime → f.lastArrival = some a →
        let e := a + f.cfg.period - f.cfg.tolerance
        observe t f = ({ g with early := if (e - t).toNat < 2 ^ 31 ∧ t ≠ e then f.early + 1 else f.early }, none))
    ∧ (f.state = .late ∨ f.state = .lost → observe t f =
        (g, if f.cfg.notifyRecovered then some (.flowRecovered, BitVec.ofNat 16 f.missCount) else none))

/-- Policing a frame of len bytes ending at t: nothing with rate 0 or in UNUSED; else the allowance is first brought
up to t, at most to burst x 1000; a frame that fits is charged and passed, and one that does not is not charged and
meets the over action (R86 to R89). -/
def Obligations.PolicerRefillsTestsAndCharges : Prop :=
  ∀ (t : Instant) (len : Nat) (f : FlowEntry),
    let tokens := min (f.tokens + (t - f.lastRefill).toNat * f.cfg.rate) (f.cfg.burst * 1000)
    (f.cfg.rate = 0 ∨ f.state = .unused → police t len f = (f, .pass))
    ∧ (f.cfg.rate ≠ 0 → f.state ≠ .unused →
      (len * 1000 ≤ tokens → police t len f =
        ({ f with tokens := tokens - len * 1000, lastRefill := t, passed := f.passed + 1 }, .pass))
      ∧ (tokens < len * 1000 → f.cfg.overAction = .demote → police t len f =
        ({ f with tokens := tokens, lastRefill := t, passed := f.passed + 1, policed := f.policed + 1 }, .demote))
      ∧ (tokens < len * 1000 → f.cfg.overAction = .drop → police t len f =
        ({ f with tokens := tokens, lastRefill := t, policed := f.policed + 1 }, .drop)))

/-- A frame that an entry bound to a flow wins: the flow observes it, and for FORWARD polices it as the length
received; it is then forwarded at the working priority, forwarded at priority 0, or dropped, and a DROP entry's frame
is dropped whatever the flow says (R50, R52, R54, R68). -/
def Obligations.BoundFlowsObserveAndPolice : Prop :=
  ∀ (p : Port) (b : BufId) (l : List Byte) (i : RulePos) (e : RuleEntry) (k : FlowIx) (s : State),
    s.receiving p b l → goodFrame l → ¬ s.addressed (headerOf l) → (headerOf l).hop ≠ 0 →
    lookupIn s.activeBank p (headerOf l) = .hit i e → e.flow = some k →
    let o := observe s.localTime (s.flow k)
    let u := { s with
      hits := s.hits.set i (s.hits.get i + 1)
      notices := match o.2 with
        | some (kind, detail) => pushNotice s.notices kind s.cellTime (byteOf k) detail
        | none => s.notices }
    let x := endedGood (s.port p)
    (∀ set newPrio rewrite, e.action = .forward set newPrio rewrite →
      let v := police s.localTime ((byteAt l 4).toNat + 8) o.1
      let u := u.setFlow k v.1
      let tag := rewriteTag rewrite (headerOf l).tag
      ∃ t, exec (.frameEnd p) s = .next t
        ∧ (v.2 = .pass → Forwarded u t p b l set (newPrio.getD (headerOf l).prio) tag)
        ∧ (v.2 = .demote → Forwarded u t p b l set 0 tag)
        ∧ (v.2 = .drop → Released u t p
            { x with counters := { x.counters with policedDrop := x.counters.policedDrop + 1 } } [b] u.notices))
    ∧ (e.action = .drop → ∃ t, exec (.frameEnd p) s = .next t
        ∧ Released (u.setFlow k o.1) t p
            { x with counters := { x.counters with ruleDrop := x.counters.ruleDrop + 1 } } [b] u.notices)

/-- A deadline expiry that finds its flow ON_TIME: one miss and one LATE_EVENT; LOST without a deadline when the loss
limit is 1, else LATE with a deadline one period on; the notice of each only when its flag is set; the last arrival
and all else as they were (R73). The notice carries the deadline that expired in cell time, the flow and the miss
count (R75); that it does so also where the expiry is taken later than its instant is the model's inference (log 27).
-/
def Obligations.ExpiryOnTimeMakesLateOrLost : Prop :=
  ∀ (i : FlowIx) (d : Instant) (s : State), s.running = true → (s.flow i).state = .onTime →
    (s.flow i).deadline = some d → s.passed d = true →
    let f := { s.flow i with missCount := 1, lateEvents := (s.flow i).lateEvents + 1 }
    (f.cfg.lossLimit = 1 → exec (.deadlineExpiry i) s = .next
      { s.setFlow i { f with state := .lost, deadline := none } with
        notices := if f.cfg.notifyLost then pushNotice s.notices .flowLost (s.toCell d) (byteOf i) 1 else s.notices })
    ∧ (f.cfg.lossLimit ≠ 1 → exec (.deadlineExpiry i) s = .next
      { s.setFlow i { f with state := .late, deadline := some (d + f.cfg.period) } with
        notices := if f.cfg.notifyLate then pushNotice s.notices .flowLate (s.toCell d) (byteOf i) 1 else s.notices })

/-- A deadline expiry that finds its flow LATE: one miss more; at the loss limit LOST without a deadline, with its
notice when its flag is set; below it LATE with a deadline one period on and no notice; LATE_EVENTS, the last arrival
and all else as they were; a LOST flow takes no expiry (R74). The notice carries the deadline that expired in cell
time, the flow and the miss count (R75), also where the expiry is taken later than its instant, which is the model's
inference (log 27); and that an expiry commanded in LOST changes nothing is its choice (log 4). -/
def Obligations.ExpiryLateCountsMissesToTheLimit : Prop :=
  ∀ (i : FlowIx) (s : State), s.running = true →
    ((s.flow i).state = .lost → exec (.deadlineExpiry i) s = .next s)
    ∧ ∀ d, (s.flow i).state = .late → (s.flow i).deadline = some d → s.passed d = true →
      let f := { s.flow i with missCount := (s.flow i).missCount + 1 }
      (f.missCount = f.cfg.lossLimit → exec (.deadlineExpiry i) s = .next
        { s.setFlow i { f with state := .lost, deadline := none } with
          notices := if f.cfg.notifyLost then
              pushNotice s.notices .flowLost (s.toCell d) (byteOf i) (BitVec.ofNat 16 f.missCount)
            else s.notices })
      ∧ (f.missCount ≠ f.cfg.lossLimit → exec (.deadlineExpiry i) s = .next
        (s.setFlow i { f with deadline := some (d + f.cfg.period) }))

/-- A fill-up, 2^30 µs after the last refill of a flow in use with a rate: a full allowance, the last refill moved to
that instant, and nothing else changed; there is none before then, for an UNUSED flow, or with rate 0 (R91), and one
commanded then changes nothing, which is the model's choice (log 4). -/
def Obligations.FillUpFillsTheAllowance : Prop :=
  ∀ (i : FlowIx) (s : State), s.running = true →
    ((s.flow i).state ≠ .unused → (s.flow i).cfg.rate ≠ 0 → s.passed ((s.flow i).lastRefill + 1073741824) = true →
      exec (.fillUp i) s = .next (s.setFlow i { s.flow i with
        tokens := (s.flow i).cfg.burst * 1000, lastRefill := (s.flow i).lastRefill + 1073741824 }))
    ∧ ((s.flow i).state = .unused ∨ (s.flow i).cfg.rate = 0
        ∨ s.passed ((s.flow i).lastRefill + 1073741824) = false → exec (.fillUp i) s = .next s)

/-! ### The timers of a port, the pool and the egress queues -/

/-- A leak lowers the score by 1; above 0 the next leak is one interval after the old one, at 0 there is none; and the
warned flag clears when twice the score is below the warn threshold (R131, R132). The end of a quarantine: score 0,
the warned flag clear, no leak, and TRAINING, where nothing is received any more (R121, R135; what becomes of a
reception in progress is the model's inference, log 10). -/
def Obligations.LeaksAndQuarantineEnds : Prop :=
  (∀ (p : Port) (d : Instant) (s : State), s.running = true → (s.port p).nextLeak = some d → s.passed d = true →
    let y := { s.port p with
      score := (s.port p).score - 1
      nextLeak := if (s.port p).score - 1 = 0 then none
        else some (d + BitVec.ofNat 32 ((s.port p).cfg.leakInterval * 1000)) }
    ((s.port p).warned = true → exec (.leak p) s = .next
      (s.setPort p { y with warned := decide (y.cfg.warnThreshold ≤ 2 * y.score) }))
    ∧ ((s.port p).warned = false → y.score < y.cfg.warnThreshold → exec (.leak p) s = .next (s.setPort p y)))
  ∧ (∀ (p : Port) (d : Instant) (s : State), s.running = true → (s.port p).link = .quarantine d → s.passed d = true →
    1 ≤ (s.port p).cfg.quarantineThreshold →
    ∃ t, exec (.quarantineEnd p) s = .next t
      ∧ Released s t p { training (s.port p) with score := 0, warned := false, nextLeak := none }
          (match (s.port p).rx with | .frame (some b) _ => [b] | _ => []) s.notices)

/-- A repeat while the pool is HOLDING hands HOLD to every UP port and sets the next repeat 500 µs after the old one
(R103). An allocation fails exactly when fewer buffers are free than it needs, changes nothing then, and else takes
one free buffer (R98, R99, R100, R102). -/
def Obligations.HoldRepeatsAndAllocations : Prop :=
  (∀ (d : Instant) (s : State), s.running = true → s.pool.hold = .holding d → s.passed d = true →
    ∃ t, exec .holdRepeat s = .next t
      ∧ t = { s with ports := t.ports, pool := { s.pool with hold := .holding (d + 500) } }
      ∧ ∀ p, t.port p = if (s.port p).isUp then { s.port p with ctl := (s.port p).ctl ++ [.hold] } else s.port p)
  ∧ (∀ (n : Nat) (s : State), 1 ≤ n →
    (s.freeCount < n ↔ s.alloc n = none)
    ∧ ∀ b t, s.alloc n = some (b, t) → Allocated s t b ∧ t.freeCount + 1 = s.freeCount)

/-- A selection discards, from the front of the queue, the entries older than the age limit, counts them AGED, and
sends the first that is not; their references are given back, and a NOTICE entry that leaves waits no more (R109,
R110, R192). A transmission that has sent EOF counts TX_FRAMES and gives its buffer back; with nothing to select the
transmitter is then idle, and else a selection follows at once (R109 to R111; that it is of the same happening is read
from the manual, log 13). -/
def Obligations.SelectionsAgeThenSend : Prop :=
  (∀ (p : Port) (s : State), s.running = true → (s.port p).isUp = true → (s.port p).isHeld = false →
    (s.port p).tx = none → (s.port p).queue ≠ [] →
    let x := s.port p
    let old := fun e : QueueEntry => x.cfg.ageLimit ≠ 0 ∧ x.cfg.ageLimit * 1000 < (s.localTime - e.time).toNat
    ∃ aged sent rest t, exec (.selection p) s = .next t
      ∧ x.queue = aged ++ Option.toList sent ++ rest
      ∧ (∀ e ∈ aged, old e) ∧ (∀ e, sent = some e → ¬ old e) ∧ (sent = none → rest = [])
      ∧ Released s t p
          { x with
            queue := rest
            tx := sent.map fun e => { buf := e.buf, left := (byteAt (s.buf e.buf).bytes 4).toNat + 10 }
            counters := { x.counters with aged := x.counters.aged + BitVec.ofNat 32 aged.length } }
          (aged.map (·.buf)) (noticesAfter s.notices (aged ++ sent.toList)))
  ∧ (∀ (p : Port) (b : BufId) (s : State), s.running = true → (s.port p).tx = some { buf := b, left := 0 } →
    (∀ e ∈ (s.port p).queue, e.buf ≠ b) →
    let x := { s.port p with
      tx := none, counters := { (s.port p).counters with txFrames := (s.port p).counters.txFrames + 1 } }
    let old := fun e : QueueEntry => x.cfg.ageLimit ≠ 0 ∧ x.cfg.ageLimit * 1000 < (s.localTime - e.time).toNat
    ((x.isUp = false ∨ x.isHeld = true ∨ x.queue = []) → ∃ t, exec (.transmissionEnd p) s = .next t
      ∧ Released s t p x [b] s.notices)
    ∧ (x.isUp = true → x.isHeld = false → x.queue ≠ [] →
      ∃ aged sent rest t, exec (.transmissionEnd p) s = .next t
      ∧ x.queue = aged ++ Option.toList sent ++ rest
      ∧ (∀ e ∈ aged, old e) ∧ (∀ e, sent = some e → ¬ old e) ∧ (sent = none → rest = [])
      ∧ Released s t p
          { x with
            queue := rest
            tx := sent.map fun e => { buf := e.buf, left := (byteAt (s.buf e.buf).bytes 4).toNat + 10 }
            counters := { x.counters with aged := x.counters.aged + BitVec.ofNat 32 aged.length } }
          (b :: aged.map (·.buf)) (noticesAfter s.notices (aged ++ sent.toList))))

/-- An entry that joins a queue in priority order stands behind every entry of its level or a higher one and before
every lower one (R55, R107, R108, R110). -/
def Obligations.EntriesJoinBehindTheirLevel : Prop :=
  ∀ (e : QueueEntry) (q : List QueueEntry), q.Pairwise (fun a b => b.prio ≤ a.prio) →
    insertEntry e q = q.filter (fun x => decide (e.prio ≤ x.prio)) ++ e :: q.filter (fun x => decide (x.prio < e.prio))

/-! ### The Bank Controller's timers -/

/-- Lease expiry in EDITING: LEASE_EXPIRED names the holder's port and handle, the controller is MIRRORING at step 0,
the banks and the hit counters are as they were; the protection of the holder's requester entry ends (R27, R152; log
11). A scheduled commit whose activation instant is at or before cell time swaps the banks: the pointer flips, the 64
hit counters are 0, COMMIT_DONE names the new active bank and the holder's handle, the lease ends, and MIRRORING
begins at step 0; neither bank's contents change (R33, R34, R152; log 11, log 21). That an activation commanded while
its instant is still ahead changes nothing is the model's choice (log 4). -/
def Obligations.LeaseAndActivationTimers : Prop :=
  (∀ (k : Key) (n : Nat) (e : Instant) (s : State), s.running = true → s.ctrl = .editing k n e → s.passed e = true →
    exec .leaseExpiry s = .next { s with
      ctrl := .mirroring 0 s.localTime
      notices := pushNotice s.notices .leaseExpired s.cellTime (byteOf k.port) k.handle
      agent := { s.agent with table := s.agent.table.map fun r =>
        if r.key = k then { r with lastUsed := s.localTime } else r } })
  ∧ (∀ (k : Key) (a : Instant) (s : State), s.running = true → s.ctrl = .scheduled k a →
    let ahead := (a - s.cellTime).toNat
    (1 ≤ ahead → ahead < 2 ^ 31 → exec .activation s = .next s)
    ∧ (ahead = 0 ∨ 2 ^ 31 ≤ ahead → exec .activation s = .next { s with
      active := s.active + 1
      hits := Vector.replicate 64 0
      ctrl := .mirroring 0 s.localTime
      notices := pushNotice s.notices .commitDone s.cellTime (if s.active = 0 then 1 else 0) k.handle
      agent := { s.agent with table := s.agent.table.map fun r =>
        if r.key = k then { r with lastUsed := s.localTime } else r } }))

/-- Mirror step k, due k + 1 µs after MIRRORING was entered, copies the active entry at position k into the shadow;
step 64 copies the miss record and enters FREE; the active bank is as it was (R37; log 11). -/
def Obligations.MirrorStepsCopyTheActiveBank : Prop :=
  ∀ (k : Fin 65) (e : Instant) (s : State), s.running = true → s.ctrl = .mirroring k e →
    s.passed (e + BitVec.ofNat 32 (k.val + 1)) = true →
    ∃ t, exec .mirrorStep s = .next t
      ∧ t = { s with banks := t.banks, ctrl := t.ctrl } ∧ t.activeBank = s.activeBank
      ∧ (k.val < 64 → t.shadowBank.miss = s.shadowBank.miss
        ∧ (∃ n : Fin 65, n.val = k.val + 1 ∧ t.ctrl = .mirroring n e)
        ∧ ∀ i : RulePos, t.shadowBank.entries.get i =
            if i.val = k.val then s.activeBank.entries.get i else s.shadowBank.entries.get i)
      ∧ (k.val = 64 → t.ctrl = .free ∧ t.shadowBank = { s.shadowBank with miss := s.activeBank.miss })

/-! ### The Management Agent -/

/-- The end of the busy interval makes the Agent READY; an unprotected requester entry unused for 900 s leaves the
table, and every other entry stays in its place (R146, R150, R152; log 12). That an entry's expiry commanded when it
is not due changes nothing is the model's choice (log 4). -/
def Obligations.AgentTimersRunOut : Prop :=
  ∀ s : State, s.running = true →
    (∀ e, s.agent.busyUntil = some e → s.passed e = true →
      exec .agentReady s = .next { s with agent := { s.agent with busyUntil := none } })
    ∧ ∀ k, exec (.requesterEntryExpiry k) s = .next { s with agent := { s.agent with
        table := s.agent.table.filter fun e =>
          !(decide (e.key = k ∧ holderOf s.ctrl ≠ some k) && s.passed (e.lastUsed + 900000000)) } }

/-- A request whose payload is under 3 bytes is taken, counted MALFORMED and dropped; it changes no table entry and is
not answered (R146, R147). A retry is answered with the cached reply and nothing is carried out; REPLAY counts it, and
the entry moves to the most recent end with its number and reply as they were (R148, R155). -/
def Obligations.ShortRequestsAndRetries : Prop :=
  (∀ (r : Taken) (s : State), s.headReady r → r.payload.length < 3 →
    ∃ t, exec .malformed s = .next t
      ∧ Released { s with agent := { s.agent with
            queue := s.agent.queue.tail
            busyUntil := some (s.localTime + 10)
            counters := { s.agent.counters with
              requestsTaken := s.agent.counters.requestsTaken + 1
              malformed := s.agent.counters.malformed + 1 } } }
          t r.port (s.port r.port) [r.buf] s.notices)
  ∧ (∀ (r : Taken) (e : Requester) (s : State), s.headReady r → 3 ≤ r.payload.length →
    s.requester r.key = some e → e.seq = r.seq →
    ∃ t, exec .replay s = .next t
      ∧ t.agent = s.answered r
          { oneMoreTaken s.agent.counters with replay := s.agent.counters.replay + 1 }
          (s.agent.table.filter fun x => x.key != r.key) s.agent.queue.tail e.reply
      ∧ Delivered s t r e.reply)

/-- A command code that names no command is answered UNKNOWN_COMMAND, and arguments of any length but the command's
one are answered BAD_LENGTH, whatever the command's other checks would say (R149, R200; the row that a request's code
and first argument name is the model's choice, log 8). -/
def Obligations.UnknownCodesAndWrongLengths : Prop :=
  (∀ (r : Taken) (s : State), s.carries r →
    r.code.toNat ∉ [0x01, 0x02, 0x03, 0x10, 0x11, 0x12, 0x13, 0x14, 0x15, 0x16, 0x20, 0x21, 0x30, 0x31, 0x32, 0x40,
      0x7F] →
    ∃ t, exec .unknownCommand s = .next t ∧ Replied s s t r .unknownCommand [])
  ∧ (∀ (r : Taken) (n : Nat) (s : State), s.carries r →
    (r.code.toNat, n) ∈ [(0x01, 0), (0x02, 4), (0x03, 4), (0x10, 2), (0x11, 19), (0x12, 2), (0x13, 1), (0x14, 3),
      (0x15, 5), (0x16, 0), (0x20, 17), (0x21, 2), (0x30, 11), (0x31, 1), (0x32, 1), (0x40, 7), (0x7F, 1)] →
    r.args.length ≠ n →
    ∃ t, exec (commandRow r.code r.args) s = .next t ∧ Replied s s t r .badLength [])

/-! ### Reading -/

/-- IDENTIFY answers the vendor, part and revision codes, the station number, the strap values, cell time and local
time (R163, R200). -/
def Obligations.IdentifyAnswersTheGateway : Prop :=
  ∀ (r : Taken) (s : State), s.carriesCommand r 0x01 0 →
    ∃ t, exec .identify s = .next t
      ∧ Replied s s t r .ok ([0x0A, 0x57, 0x04, 0x84, 1, 0#4 ++ s.straps.station,
          0#2 ++ BitVec.ofBool s.straps.mgmtP0Only ++ BitVec.ofBool s.straps.missFlood ++ s.straps.station]
        ++ be32 (s.localTime + s.offset) ++ be32 s.localTime)

/-- READ_COUNTERS of a port answers its nineteen counters, and clears them when asked (R140, R165, R166).
READ_COUNTERS of the pool answers the free count, minimum free, the hold state and HOLD_ENTRIES; when asked it sets
minimum free to the free count and HOLD_ENTRIES to 0 (R106, R165). Clear, first and count out of range are refused,
and so is a group value that names no group (R165; that the row of a port takes it is the model's choice, log 8). -/
def Obligations.PortAndPoolCounters : Prop :=
  (∀ (r : Taken) (p : Port) (s : State), s.carriesCommand r 0x02 4 → (byteAt r.args 0).toNat = p.val →
    let c := (s.port p).counters
    let results := [c.rxGood, c.rxHeaderCheck, c.rxFrameCheck, c.rxLength, c.rxRunt, c.rxCode, c.hopExpired, c.missDrop,
      c.ruleDrop, c.policedDrop, c.noRoute, c.poolEmpty, c.mgmtRefused, c.quarantineDiscard, c.txFrames, c.queueFull,
      c.aged, c.flushed, c.aborted].flatMap be32
    (byteAt r.args 1 = 0 → byteAt r.args 2 = 0 → byteAt r.args 3 = 0 → ∃ t, exec .readCountersPort s = .next t
      ∧ Replied s s t r .ok results)
    ∧ (byteAt r.args 1 = 1 → byteAt r.args 2 = 0 → byteAt r.args 3 = 0 → ∃ t, exec .readCountersPort s = .next t
      ∧ Replied s (s.setPort p { s.port p with counters := zeroPortCounters }) t r .ok results)
    ∧ (1 < (byteAt r.args 1).toNat ∨ byteAt r.args 2 ≠ 0 ∨ byteAt r.args 3 ≠ 0 →
      ∃ t, exec .readCountersPort s = .next t ∧ Replied s s t r .badArgument []))
  ∧ (∀ (r : Taken) (s : State), s.carriesCommand r 0x02 4 → byteAt r.args 0 = 0x10 →
    let results := [BitVec.ofNat 8 s.freeCount, BitVec.ofNat 8 s.pool.minFree, if s.pool.hold = .normal then 0 else 1]
      ++ be32 s.pool.holdEntries
    (byteAt r.args 1 = 0 → byteAt r.args 2 = 0 → byteAt r.args 3 = 0 → ∃ t, exec .readCountersPool s = .next t
      ∧ Replied s s t r .ok results)
    ∧ (byteAt r.args 1 = 1 → byteAt r.args 2 = 0 → byteAt r.args 3 = 0 → ∃ t, exec .readCountersPool s = .next t
      ∧ Replied s { s with pool := { s.pool with minFree := s.freeCount, holdEntries := 0 } } t r .ok results)
    ∧ (1 < (byteAt r.args 1).toNat ∨ byteAt r.args 2 ≠ 0 ∨ byteAt r.args 3 ≠ 0 →
      ∃ t, exec .readCountersPool s = .next t ∧ Replied s s t r .badArgument []))
  ∧ (∀ (r : Taken) (s : State), s.carriesCommand r 0x02 4 → 3 < (byteAt r.args 0).toNat →
    byteAt r.args 0 ∉ [0x10, 0x20, 0x30] →
    ∃ t, exec .readCountersPort s = .next t ∧ Replied s s t r .badArgument [])

/-- READ_COUNTERS of the Agent answers its five counters, this taking counted, and clears them when asked (R147, R158,
R165). READ_COUNTERS of the rules answers the hit counters of 1 to 16 positions in order, and sets those to 0 when
asked (R19, R165, R166). Arguments out of range are refused. -/
def Obligations.AgentAndHitCounters : Prop :=
  (∀ (r : Taken) (s : State), s.carriesCommand r 0x02 4 → byteAt r.args 0 = 0x20 →
    let c := s.agent.counters
    let results := [c.requestsTaken + 1, c.replay, c.overflow, c.malformed, c.replyDropped].flatMap be32
    (byteAt r.args 1 = 0 → byteAt r.args 2 = 0 → byteAt r.args 3 = 0 → ∃ t, exec .readCountersAgent s = .next t
      ∧ Replied s s t r .ok results)
    ∧ (byteAt r.args 1 = 1 → byteAt r.args 2 = 0 → byteAt r.args 3 = 0 → ∃ t, exec .readCountersAgent s = .next t
      ∧ t.agent = s.answered r zeroAgentCounters (s.otherRequesters r.key) s.agent.queue.tail
          (replyPayload r .ok results)
      ∧ Delivered s t r (replyPayload r .ok results))
    ∧ (1 < (byteAt r.args 1).toNat ∨ byteAt r.args 2 ≠ 0 ∨ byteAt r.args 3 ≠ 0 →
      ∃ t, exec .readCountersAgent s = .next t ∧ Replied s s t r .badArgument []))
  ∧ (∀ (r : Taken) (s : State), s.carriesCommand r 0x02 4 → byteAt r.args 0 = 0x30 →
    let first := (byteAt r.args 2).toNat
    let count := (byteAt r.args 3).toNat
    let inside := first < 64 ∧ 1 ≤ count ∧ count ≤ 16 ∧ first + count ≤ 64
    let results := ((List.range count).map fun k => s.hits.toList.getD (first + k) 0).flatMap be32
    (inside → byteAt r.args 1 = 0 → ∃ t, exec .readCountersRules s = .next t ∧ Replied s s t r .ok results)
    ∧ (inside → byteAt r.args 1 = 1 → ∃ t u, exec .readCountersRules s = .next t ∧ Replied s u t r .ok results
      ∧ u = { s with hits := u.hits }
      ∧ ∀ i, u.hits.get i = if first ≤ i.val ∧ i.val < first + count then 0 else s.hits.get i)
    ∧ (¬ inside ∨ 1 < (byteAt r.args 1).toNat →
      ∃ t, exec .readCountersRules s = .next t ∧ Replied s s t r .badArgument []))

/-- READ_RULES answers 1 to 4 positions of the active bank with their hit counters, or of the shadow without; a SHADOW
read is answered MIRRORING while the controller is, and renews the holder's lease in EDITING; arguments out of range
are refused (R26, R30, R172). -/
def Obligations.RulesAreRead : Prop :=
  ∀ (r : Taken) (s : State), s.carriesCommand r 0x14 3 →
    let first := (byteAt r.args 1).toNat
    let count := (byteAt r.args 2).toNat
    let inside := first < 64 ∧ 1 ≤ count ∧ count ≤ 4 ∧ first + count ≤ 64
    let positions := (List.finRange 64).filter fun i => decide (first ≤ i.val ∧ i.val < first + count)
    let head := fun (bank : Byte) (m : MissAction) =>
      [controllerCode s.ctrl, if s.active = 0 then 0 else 1, bank, if m = .drop then 0 else 1]
    (byteAt r.args 0 = 0 → inside → ∃ t, exec .readRules s = .next t
      ∧ Replied s s t r .ok (head 0 s.activeBank.miss
          ++ positions.flatMap fun i => ruleEntryBytes (s.activeBank.entries.get i) ++ be32 (s.hits.get i)))
    ∧ (byteAt r.args 0 = 1 → inside → (∀ k e, s.ctrl ≠ .mirroring k e) → ∃ t, exec .readRules s = .next t
      ∧ Replied s
          (match s.ctrl with
            | .editing h d _ =>
              if h = r.key then { s with ctrl := .editing h d (s.localTime + BitVec.ofNat 32 (d * 1000000)) } else s
            | _ => s)
          t r .ok (head 1 s.shadowBank.miss
            ++ positions.flatMap fun i => ruleEntryBytes (s.shadowBank.entries.get i)))
    ∧ (byteAt r.args 0 = 1 → (∃ k e, s.ctrl = .mirroring k e) → ∃ t, exec .readRules s = .next t
      ∧ Replied s s t r .mirroring [])
    ∧ (1 < (byteAt r.args 0).toNat ∨ (¬ inside ∧ (byteAt r.args 0 = 0 ∨ ∀ k e, s.ctrl ≠ .mirroring k e)) →
      ∃ t, exec .readRules s = .next t ∧ Replied s s t r .badArgument [])

/-- READ_FLOW answers a flow's configuration, state, miss count, its instants in cell time, its allowance in whole
bytes and its counters, and clears the four counters when asked (R79, R176). READ_PORT answers a port's number,
configuration, state, score, flags, queue depth and quarantine time left, 0 once its instant has passed (R139, R180;
log 18). A flow index above 127, a clear flag above 1 and a port above 3 are refused. -/
def Obligations.FlowsAndPortsAreRead : Prop :=
  (∀ (r : Taken) (i : FlowIx) (s : State), s.carriesCommand r 0x21 2 → (byteAt r.args 0).toNat = i.val →
    let f := s.flow i
    let instant := fun o : Option Instant => be32 (match o with | some a => a + s.offset | none => 0)
    let results := flowImageBytes (flowImage f.cfg)
      ++ [flowStateCode f.state, BitVec.ofNat 8 f.missCount,
        0#6 ++ BitVec.ofBool f.lastArrival.isSome ++ BitVec.ofBool f.deadline.isSome]
      ++ instant f.deadline ++ instant f.lastArrival ++ be16 (BitVec.ofNat 16 (f.tokens / 1000))
      ++ [f.passed, f.policed, f.early, f.lateEvents].flatMap be32
    (byteAt r.args 1 = 0 → ∃ t, exec .readFlow s = .next t ∧ Replied s s t r .ok results)
    ∧ (byteAt r.args 1 = 1 → ∃ t, exec .readFlow s = .next t
      ∧ Replied s (s.setFlow i { f with passed := 0, policed := 0, early := 0, lateEvents := 0 }) t r .ok results)
    ∧ (1 < (byteAt r.args 1).toNat → ∃ t, exec .readFlow s = .next t ∧ Replied s s t r .badArgument []))
  ∧ (∀ (r : Taken) (s : State), s.carriesCommand r 0x21 2 → 127 < (byteAt r.args 0).toNat →
    ∃ t, exec .readFlow s = .next t ∧ Replied s s t r .badArgument [])
  ∧ (∀ (r : Taken) (s : State), s.carriesCommand r 0x31 1 →
    (∀ p : Port, (byteAt r.args 0).toNat = p.val → ∃ t, exec .readPort s = .next t
      ∧ let x := s.port p
        Replied s s t r .ok ([BitVec.ofNat 8 p.val] ++ portImageBytes (portImage x.cfg) ++ [linkCode x.link]
          ++ be16 (BitVec.ofNat 16 x.score)
          ++ [0#5 ++ BitVec.ofBool x.isQuarantine ++ BitVec.ofBool x.isHeld ++ BitVec.ofBool x.warned,
            BitVec.ofNat 8 x.queue.length]
          ++ be16 (match x.link with
            | .quarantine e => if s.passed e then 0 else BitVec.ofNat 16 (((e - s.localTime).toNat + 999) / 1000)
            | _ => 0)))
    ∧ (3 < (byteAt r.args 0).toNat → ∃ t, exec .readPort s = .next t ∧ Replied s s t r .badArgument []))

/-! ### The edit session -/

/-- OPEN_EDIT grants the lease from FREE, and sets it anew for its holder, for 1 to 600 s; an out-of-range duration is
refused with the controller as it was; it is refused by the state and the holder as the rule's table has it (R25). -/
def Obligations.OpenEditGrantsTheLease : Prop :=
  ∀ (r : Taken) (s : State), s.carriesCommand r 0x10 2 →
    let d := (halfAt r.args 0).toNat
    let mine := s.ctrl = .free ∨ ∃ n e, s.ctrl = .editing r.key n e
    (mine → 1 ≤ d → d ≤ 600 → ∃ t, exec .openEdit s = .next t
      ∧ Replied s { s with ctrl := .editing r.key d (s.localTime + BitVec.ofNat 32 (d * 1000000)) } t r .ok
          (leasedResults s.active d))
    ∧ (mine → d = 0 ∨ 600 < d → ∃ t, exec .openEdit s = .next t ∧ Replied s s t r .badArgument [])
    ∧ (∀ k, k ≠ r.key → (∃ n e, s.ctrl = .editing k n e) ∨ (∃ a, s.ctrl = .scheduled k a) →
      ∃ t, exec .openEdit s = .next t ∧ Replied s s t r .notHolder [])
    ∧ (∀ a, s.ctrl = .scheduled r.key a → ∃ t, exec .openEdit s = .next t ∧ Replied s s t r .pending [])
    ∧ (∀ k e, s.ctrl = .mirroring k e → ∃ t, exec .openEdit s = .next t ∧ Replied s s t r .mirroring [])

/-- WRITE_RULE, CLEAR_RULES, WRITE_MISS, COMMIT and ABANDON of the right length are refused by the state and the
holder, whatever their arguments hold, as the table of the edit commands has it (R28). -/
def Obligations.EditCommandsNeedTheLease : Prop :=
  ∀ (r : Taken) (n : Nat) (s : State), s.carries r → r.args.length = n →
    (r.code.toNat, n) ∈ [(0x11, 19), (0x12, 2), (0x13, 1), (0x15, 5), (0x16, 0)] →
    let row := commandRow r.code r.args
    (s.ctrl = .free → ∃ t, exec row s = .next t ∧ Replied s s t r .noLease [])
    ∧ (∀ k, k ≠ r.key → (∃ d e, s.ctrl = .editing k d e) ∨ (∃ a, s.ctrl = .scheduled k a) →
      ∃ t, exec row s = .next t ∧ Replied s s t r .notHolder [])
    ∧ (∀ a, s.ctrl = .scheduled r.key a → r.code ≠ 0x16 → ∃ t, exec row s = .next t ∧ Replied s s t r .pending [])
    ∧ (∀ k e, s.ctrl = .mirroring k e → ∃ t, exec row s = .next t ∧ Replied s s t r .mirroring [])

/-- WRITE_RULE of the holder in EDITING stores the image's entry at its position of the shadow, the match and rewrite
values under their masks, or the cleared entry for an image marked not valid; CLEAR_RULES stores the cleared entry at
each position it names; WRITE_MISS sets the shadow's miss record; each renews the lease and leaves the active bank as
it was; a position or range that does not exist, an image marked valid that fails one of the nine checks, and a miss
action that is neither, are refused (R2, R15 to R17, R26, R29, R169 to R171). -/
def Obligations.EditsWriteTheShadow : Prop :=
  (∀ (r : Taken) (d : Nat) (e : Instant) (s : State), s.carriesCommand r 0x11 19 → s.ctrl = .editing r.key d e →
    1 ≤ d → d ≤ 600 →
    let m := ruleImageOf (r.args.drop 1)
    let checked := m.ingress ≠ 0 ∧ m.kinds ≠ 0 ∧ m.lo.toNat ≤ m.hi.toNat
      ∧ (m.dropAction = false → m.forward ≠ 0)
      ∧ (m.dropAction = true → m.hasPrio = false ∧ m.hasRewrite = false ∧ m.forward = 0)
      ∧ (m.hasRewrite = true → m.rwMask ≠ 0) ∧ (m.hasRewrite = false → m.rwValue = 0 ∧ m.rwMask = 0)
      ∧ (m.hasFlow = true → m.flowIx.toNat < 128) ∧ (m.hasFlow = false → m.flowIx = 0)
      ∧ (m.hasPrio = false → m.newPrio = 0)
      ∧ m.reserved0 = 0 ∧ m.reserved8 = 0 ∧ m.reserved9 = 0 ∧ m.reserved10 = 0
    let stored : RuleEntry :=
      if m.valid then
        { valid := true, matchValue := m.matchValue &&& m.matchMask, matchMask := m.matchMask
          ingress := m.ingress, kinds := m.kinds, lo := m.lo, hi := m.hi
          action := if m.dropAction then .drop
            else .forward m.forward (if m.hasPrio then some m.newPrio else none)
              (if m.hasRewrite then some { value := m.rwValue &&& m.rwMask, mask := m.rwMask } else none)
          flow := if m.hasFlow then some (Fin.ofNat 128 m.flowIx.toNat) else none }
      else
        { valid := false, matchValue := 0, matchMask := 0, ingress := 0, kinds := 0, lo := 0, hi := 0
          action := .drop, flow := none }
    (∀ i : RulePos, (byteAt r.args 0).toNat = i.val → m.valid = false ∨ checked →
      ∃ t u, exec .writeRule s = .next t ∧ Replied s u t r .ok (leasedResults s.active d)
        ∧ u = { s with
            banks := u.banks, ctrl := .editing r.key d (s.localTime + BitVec.ofNat 32 (d * 1000000)) }
        ∧ u.activeBank = s.activeBank ∧ u.shadowBank.miss = s.shadowBank.miss
        ∧ ∀ j, u.shadowBank.entries.get j = if j = i then stored else s.shadowBank.entries.get j)
    ∧ (63 < (byteAt r.args 0).toNat ∨ (m.valid = true ∧ ¬ checked) →
      ∃ t, exec .writeRule s = .next t ∧ Replied s s t r .badArgument []))
  ∧ (∀ (r : Taken) (d : Nat) (e : Instant) (s : State), s.carriesCommand r 0x12 2 → s.ctrl = .editing r.key d e →
    1 ≤ d → d ≤ 600 →
    let first := (byteAt r.args 0).toNat
    let count := (byteAt r.args 1).toNat
    (first < 64 → 1 ≤ count → first + count ≤ 64 →
      ∃ t u, exec .clearRules s = .next t ∧ Replied s u t r .ok (leasedResults s.active d)
        ∧ u = { s with
            banks := u.banks, ctrl := .editing r.key d (s.localTime + BitVec.ofNat 32 (d * 1000000)) }
        ∧ u.activeBank = s.activeBank ∧ u.shadowBank.miss = s.shadowBank.miss
        ∧ ∀ j, u.shadowBank.entries.get j =
            if first ≤ j.val ∧ j.val < first + count then
              { valid := false, matchValue := 0, matchMask := 0, ingress := 0, kinds := 0, lo := 0, hi := 0
                action := .drop, flow := none }
            else s.shadowBank.entries.get j)
    ∧ (count = 0 ∨ 64 < first + count ∨ 64 ≤ first →
      ∃ t, exec .clearRules s = .next t ∧ Replied s s t r .badArgument []))
  ∧ (∀ (r : Taken) (d : Nat) (e : Instant) (s : State), s.carriesCommand r 0x13 1 → s.ctrl = .editing r.key d e →
    1 ≤ d → d ≤ 600 →
    ((byteAt r.args 0).toNat ≤ 1 →
      ∃ t u, exec .writeMiss s = .next t ∧ Replied s u t r .ok (leasedResults s.active d)
        ∧ u = { s with
            banks := u.banks, ctrl := .editing r.key d (s.localTime + BitVec.ofNat 32 (d * 1000000)) }
        ∧ u.activeBank = s.activeBank
        ∧ u.shadowBank = { s.shadowBank with miss := if byteAt r.args 0 = 0 then .drop else .flood })
    ∧ (1 < (byteAt r.args 0).toNat → ∃ t, exec .writeMiss s = .next t ∧ Replied s s t r .badArgument []))

/-- COMMIT NOW of the holder in EDITING swaps the banks and answers after the swap; a mode that is neither NOW nor AT
is refused (R31, R33, R173; its row is the model's choice, log 8). COMMIT AT swaps at once for an instant at or before
cell time, schedules one up to 60 s ahead, and refuses one further ahead (R32, R33, R173; log 21). -/
def Obligations.CommitsSwapOrSchedule : Prop :=
  (∀ (r : Taken) (d : Nat) (e : Instant) (s : State), s.carriesCommand r 0x15 5 → s.ctrl = .editing r.key d e →
    (byteAt r.args 0 = 0 → ∃ t, exec .commitNow s = .next t
      ∧ Replied s (s.swappedFor r.key) t r .ok (noLeaseResults 3 (s.active + 1)))
    ∧ (1 < (byteAt r.args 0).toNat → ∃ t, exec .commitNow s = .next t ∧ Replied s s t r .badArgument []))
  ∧ (∀ (r : Taken) (d : Nat) (e : Instant) (s : State), s.carriesCommand r 0x15 5 → byteAt r.args 0 = 1 →
    s.ctrl = .editing r.key d e →
    let a := wordAt r.args 1
    let ahead := (a - s.cellTime).toNat
    (ahead = 0 ∨ 2 ^ 31 ≤ ahead → ∃ t, exec .commitAt s = .next t
      ∧ Replied s (s.swappedFor r.key) t r .ok (noLeaseResults 3 (s.active + 1)))
    ∧ (1 ≤ ahead → ahead ≤ 60000000 → ∃ t, exec .commitAt s = .next t
      ∧ Replied s { s with ctrl := .scheduled r.key a } t r .ok (noLeaseResults 2 s.active))
    ∧ (60000000 < ahead → ahead < 2 ^ 31 → ∃ t, exec .commitAt s = .next t ∧ Replied s s t r .badArgument []))

/-- ABANDON of the holder, in EDITING and in SCHEDULED alike, enters MIRRORING at step 0 with the lease and any
activation instant ended; banks, hit counters and notices are as they were, and the reply names MIRRORING and the
active bank (R36). -/
def Obligations.AbandonMirrorsWithoutASwap : Prop :=
  ∀ (r : Taken) (s : State), s.carriesCommand r 0x16 0 →
    (∃ d e, s.ctrl = .editing r.key d e) ∨ (∃ a, s.ctrl = .scheduled r.key a) →
    ∃ t, exec .abandon s = .next t
      ∧ Replied s { s with ctrl := .mirroring 0 s.localTime } t r .ok (noLeaseResults 3 s.active)

/-- ADJUST_TIME adds its step to the offset, and moves no local-time instant; a scheduled activation that the new cell
time has reached is swapped within it, for its holder, before the reply is built; a step of -2^31 is refused (R35,
R67, R164; log 21). That an ADJUST_TIME taken at the very instant of the activation, even with a step of 0, swaps is
the model's choice (log 30). -/
def Obligations.AdjustTimeStepsTheOffset : Prop :=
  ∀ (r : Taken) (s : State), s.carriesCommand r 0x03 4 →
    let step := wordAt r.args 0
    let u := { s with offset := s.offset + step }
    let results := be32 (s.localTime + (s.offset + step)) ++ be32 (s.offset + step)
    let ahead := fun a : Instant => (a - u.cellTime).toNat
    (step = 0x80000000 → ∃ t, exec .adjustTime s = .next t ∧ Replied s s t r .badArgument [])
    ∧ (step ≠ 0x80000000 → (∀ k a, s.ctrl = .scheduled k a → 1 ≤ ahead a ∧ ahead a < 2 ^ 31) →
      ∃ t, exec .adjustTime s = .next t ∧ Replied s u t r .ok results)
    ∧ (∀ k a, step ≠ 0x80000000 → s.ctrl = .scheduled k a → ahead a = 0 ∨ 2 ^ 31 ≤ ahead a →
      ∃ t, exec .adjustTime s = .next t
        ∧ t.agent = (u.swappedFor k).answered r (oneMoreTaken s.agent.counters)
            ((s.otherRequesters r.key).map fun e => if e.key = k then { e with lastUsed := s.localTime } else e)
            s.agent.queue.tail (replyPayload r .ok results)
        ∧ Delivered (u.swappedFor k) t r (replyPayload r .ok results))

/-! ### Flows, ports, notices and resets by command -/

/-- WRITE_FLOW sets a flow to the cleared entry, or arms it with a configuration within its ranges and a full
allowance, and is refused otherwise with the entry as it was (R61, R62, R77, R78, R93). -/
def Obligations.WriteFlowSetsTheEntry : Prop :=
  ∀ (r : Taken) (s : State), s.carriesCommand r 0x20 17 →
    let m := flowImageOf (r.args.drop 2)
    let checked := 100 ≤ m.period.toNat ∧ m.period.toNat ≤ 2000000 ∧ m.tolerance.toNat ≤ m.period.toNat / 2
      ∧ 1 ≤ m.lossLimit.toNat ∧ m.lossLimit.toNat ≤ 15 ∧ m.burst ≠ 0 ∧ m.overAction.toNat ≤ 1 ∧ m.notify.toNat < 8
    (∀ i : FlowIx, (byteAt r.args 0).toNat = i.val →
      (byteAt r.args 1 = 0 → ∃ t, exec .writeFlow s = .next t
        ∧ Replied s (s.setFlow i { clearedFlow 0 with lastRefill := s.localTime }) t r .ok [0])
      ∧ (byteAt r.args 1 = 1 → checked → ∃ t, exec .writeFlow s = .next t
        ∧ Replied s (s.setFlow i
            { cfg :=
                { period := m.period, tolerance := m.tolerance, lossLimit := m.lossLimit.toNat, rate := m.rate.toNat
                  burst := m.burst.toNat, overAction := if m.overAction = 0 then .drop else .demote
                  notifyLate := m.notify.getLsbD 0, notifyLost := m.notify.getLsbD 1
                  notifyRecovered := m.notify.getLsbD 2 }
              state := .armed, missCount := 0, deadline := none, lastArrival := none
              tokens := m.burst.toNat * 1000, lastRefill := s.localTime
              passed := 0, policed := 0, early := 0, lateEvents := 0 }) t r .ok [1])
      ∧ (1 < (byteAt r.args 1).toNat ∨ (byteAt r.args 1 = 1 ∧ ¬ checked) →
        ∃ t, exec .writeFlow s = .next t ∧ Replied s s t r .badArgument []))
    ∧ (127 < (byteAt r.args 0).toNat → ∃ t, exec .writeFlow s = .next t ∧ Replied s s t r .badArgument [])

/-- SET_PORT stores a configuration that passes its checks and moves the port in the manual's order; a port above 3
and a setting out of range are refused with BAD_ARGUMENT, and a configuration that would leave no port enabled and
accepting, or that takes that from the request's own port, with LOCKOUT (R124, R131 to R133, R138, R177 to R179).
Three points are the model's inferences: the place of the quarantine test of an enabled port (log 17), the hold
decision on what a flush gives back before the reply's allocation (log 14), and that the control symbols handed to a
transmitter are dropped when its port leaves UP (log 19). -/
def Obligations.SetPortStoresAndMoves : Prop :=
  (∀ (r : Taken) (p : Port) (s : State), s.carriesCommand r 0x30 11 → (byteAt r.args 0).toNat = p.val →
    r.buf ∉ (s.port p).held →
    let m := portImageOf (r.args.drop 1)
    let c := portConfigOf m
    let checked := m.flags.toNat < 4 ∧ 1 ≤ m.queueLimit.toNat ∧ m.queueLimit.toNat ≤ 48
      ∧ 1 ≤ m.warnThreshold.toNat ∧ m.warnThreshold.toNat ≤ 1022 ∧ 1 ≤ m.leakInterval.toNat
      ∧ 1 ≤ m.holdLimit.toNat ∧ 1 ≤ m.quarantineHold.toNat
      ∧ m.warnThreshold.toNat < m.quarantineThreshold.toNat ∧ m.quarantineThreshold.toNat ≤ 1023
    let open_ := (c.enable = true ∧ c.accepts = true)
      ∨ ∃ q, q ≠ p ∧ (s.port q).cfg.enable = true ∧ (s.port q).cfg.accepts = true
    let keepsOwn := r.port = p → c.enable = true ∧ c.accepts = true
    (checked → open_ → keepsOwn → ∃ t u, exec .setPort s = .next t
      ∧ (let x := configured (s.port p) c s.notices p s.localTime s.cellTime
         Released s u p x.1 x.2.2 x.2.1)
      ∧ Replied s u t r .ok (u.portResults p))
    ∧ (checked → ¬ (open_ ∧ keepsOwn) → ∃ t, exec .setPort s = .next t ∧ Replied s s t r .lockout [])
    ∧ (¬ checked → ∃ t, exec .setPort s = .next t ∧ Replied s s t r .badArgument []))
  ∧ (∀ (r : Taken) (s : State), s.carriesCommand r 0x30 11 → 3 < (byteAt r.args 0).toNat →
    ∃ t, exec .setPort s = .next t ∧ Replied s s t r .badArgument [])

/-- RELEASE_PORT ends the quarantine of the port it names, with score 0, the warned flag clear, and TRAINING; a port
not in QUARANTINE is refused with BAD_STATE, and a port above 3 with BAD_ARGUMENT (R135, R181). That a reception in
progress is dropped, and that its buffer counts for the hold state before the reply's allocation, are the model's
inferences (log 10, log 14). SET_NOTICES stores the four settings, and touches no record; a port above 3, a priority
above 7 and a mask bit that names no kind are refused (R182, R193). -/
def Obligations.ReleasePortAndSetNotices : Prop :=
  (∀ (r : Taken) (p : Port) (s : State), s.carriesCommand r 0x32 1 → (byteAt r.args 0).toNat = p.val →
    r.buf ∉ (s.port p).held → 1 ≤ (s.port p).cfg.quarantineThreshold →
    ((s.port p).isQuarantine = true → ∃ t u, exec .releasePort s = .next t
      ∧ Released s u p { training (s.port p) with score := 0, warned := false, nextLeak := none }
          (match (s.port p).rx with | .frame (some b) _ => [b] | _ => []) s.notices
      ∧ Replied s u t r .ok (u.portResults p))
    ∧ ((s.port p).isQuarantine = false → ∃ t, exec .releasePort s = .next t ∧ Replied s s t r .badState []))
  ∧ (∀ (r : Taken) (s : State), s.carriesCommand r 0x32 1 → 3 < (byteAt r.args 0).toNat →
    ∃ t, exec .releasePort s = .next t ∧ Replied s s t r .badArgument [])
  ∧ (∀ (r : Taken) (s : State), s.carriesCommand r 0x40 7 →
    let prio := byteAt r.args 4
    let mask := halfAt r.args 5
    (∀ p : Port, (byteAt r.args 0).toNat = p.val → prio.toNat ≤ 7 → mask.toNat < 4096 →
      ∃ t u, exec .setNotices s = .next t ∧ Replied s u t r .ok r.args
        ∧ u = { s with notices := { s.notices with cfg :=
            { dest := p, tag := tagAt r.args 1, prio := prio.setWidth 3, mask := mask.setWidth 12 } } })
    ∧ (3 < (byteAt r.args 0).toNat ∨ 7 < prio.toNat ∨ 4096 ≤ mask.toNat →
      ∃ t, exec .setNotices s = .next t ∧ Replied s s t r .badArgument []))

/-- RESET TRAFFIC flushes every queue and aborts every transmission, decides the hold state once, re-arms every flow
in use with a full allowance, and keeps everything else; a kind that names no reset is refused (R42, R84, R116, R144,
R160, R183, R184; log 8, log 14). -/
def Obligations.TrafficResetClearsWhatIsInFlight : Prop :=
  ∀ (r : Taken) (s : State), s.carriesCommand r 0x7F 1 → (∀ p, r.buf ∉ flushedRefs (s.port p)) →
    (byteAt r.args 0 = 0 → ∃ t u, exec .resetTraffic s = .next t ∧ Replied s u t r .ok [0]
      ∧ u = { s with ports := u.ports, pool := u.pool, notices := u.notices, flows := u.flows }
      ∧ (∀ p, u.port p = { flushed (s.port p) with
          ctl := (s.port p).ctl ++ if (s.port p).isUp && s.resumed u then [.resume] else [] })
      ∧ (∀ b, u.buf b = (s.buf b).less (((List.finRange 4).flatMap fun p => flushedRefs (s.port p)).count b))
      ∧ u.pool = { s.pool with bufs := u.pool.bufs, hold := if s.resumed u then .normal else s.pool.hold }
      ∧ u.notices = noticesAfter s.notices ((List.finRange 4).flatMap fun p => (s.port p).queue)
      ∧ ∀ i, u.flow i = if (s.flow i).state = .unused then s.flow i
          else { s.flow i with
            state := .armed, missCount := 0, deadline := none, lastArrival := none
            tokens := (s.flow i).cfg.burst * 1000, lastRefill := s.localTime })
    ∧ (1 < (byteAt r.args 0).toNat → ∃ t, exec .resetTraffic s = .next t ∧ Replied s s t r .badArgument [])

/-- RESET FULL brings every block to its power-on state but local time, the offset, the latched straps, the ports'
link states and partner holds, the busy interval and the next sequence number; its own request keeps its buffer and is
the one requester entry left (R41, R83, R117, R143, R161, R185, R197; log 25). A reception in UP loses its buffer
(R117, R143); but a good frame end that comes together with the reset, taken after it, is classified against what the
reset left, or captured, as the end of that frame in a buffer allocated anew (R41, R60, R159, R185). What comes
together is the model's reading (log 29), and the buffer its choice (log 31). A reception in QUARANTINE is dropped
(log 10), and the RESUME of a HOLDING pool waits behind the symbols handed before it (log 19), which are its
inferences. -/
def Obligations.FullResetRestoresPowerOn : Prop :=
  (∀ (r : Taken) (s : State), s.carriesCommand r 0x7F 1 → byteAt r.args 0 = 1 →
    ∃ t u, exec .resetFull s = .next t
      ∧ t.agent = u.answered r zeroAgentCounters [] [] (replyPayload r .ok [1])
      ∧ Delivered u t r (replyPayload r .ok [1])
      ∧ u = { s with
          ports := u.ports, pool := u.pool, flows := u.flows, banks := Vector.replicate 2 (clearedBank s.straps)
          active := 0, hits := Vector.replicate 64 0, ctrl := .free, notices := u.notices, agent := u.agent }
      ∧ (∀ p, u.port p =
          let x := s.port p
          { signal := x.signal
            link := match x.link with
              | .quarantine _ => .training 0
              | .disabled => if x.signal then .training 0 else .down
              | l => l
            score := 0, warned := false, nextLeak := none
            rx := match x.rx with
              | .frame (some _) l => if x.isQuarantine then .idle else .stripped l
              | other => if x.isQuarantine then .idle else other
            cfg := (State.powerOn s.straps 0).port p |>.cfg
            counters := zeroPortCounters, queue := [], tx := none
            ctl := x.ctl ++ if x.isUp = true ∧ s.pool.hold ≠ .normal then [.resume] else [] })
      ∧ (∀ b, u.buf b = if b = r.buf then s.buf b else freeBuffer)
      ∧ u.freeCount = 95 ∧ u.pool.minFree = 95 ∧ u.pool.hold = .normal ∧ u.pool.holdEntries = 0
      ∧ (∀ i, u.flow i = { clearedFlow 0 with lastRefill := s.localTime })
      ∧ u.notices =
        { queue := [{ seq := s.notices.nextSeq, kind := .restarted, time := s.cellTime, subject := 1
                      detail := BitVec.ofNat 16 s.notices.queue.length }]
          nextSeq := s.notices.nextSeq + 1, lost := 0
          cfg := { dest := 0, tag := 0, prio := 7, mask := 0xFFF }, waiting := none })
  ∧ (∀ (p : Port) (l : List Byte) (s : State), s.running = true → (s.port p).isUp = true →
    (s.port p).rx = .stripped l → goodFrame l →
    (5 ≤ s.freeCount → ∃ b t, Allocated (s.setPort p (lockHeld (s.port p))) t b
      ∧ let u := (t.setPort p { t.port p with rx := .frame (some b) l }).setBuf b { refs := 1, bytes := l }
        u.receiving p b l ∧ exec (.frameEnd p) s = exec (.frameEnd p) u)
    ∧ (s.freeCount < 5 → exec (.frameEnd p) s = .next (s.setPort p { lockHeld (s.port p) with
        rx := .idle, counters := { (s.port p).counters with poolEmpty := (s.port p).counters.poolEmpty + 1 } })))

/-! ### The Notice Unit -/

/-- A raised notice whose kind is disabled leaves no trace; an enabled one takes the next number, and is queued while
the queue holds fewer than 32, and lost and counted otherwise (R187, R188). A build, with no frame waiting, records
queued, and the destination UP below its limit, takes a buffer, the oldest records up to 12, and a place on the
destination's queue; it then deals with the lost count. With no buffer free, and where the send condition does not
hold, it does nothing (R189 to R191). -/
def Obligations.NoticesAreQueuedAndSent : Prop :=
  (∀ (u : NoticeUnit) (k : NoticeKind) (time : Instant) (subject : Byte) (detail : Half),
    let enabled := u.cfg.mask.getLsbD ((noticeCode k).toNat - 1)
    (enabled = false → pushNotice u k time subject detail = u)
    ∧ (enabled = true → u.queue.length < 32 → pushNotice u k time subject detail =
      { u with nextSeq := u.nextSeq + 1, queue := u.queue ++ [{ seq := u.nextSeq, kind := k, time, subject, detail }] })
    ∧ (enabled = true → 32 ≤ u.queue.length → pushNotice u k time subject detail =
      { u with nextSeq := u.nextSeq + 1, lost := if u.lost = 0xFFFFFFFF then u.lost else u.lost + 1 }))
  ∧ (∀ s : State, s.running = true →
    let c := s.notices.cfg
    let condition := s.notices.waiting = none ∧ s.notices.queue ≠ [] ∧ (s.port c.dest).isUp = true
      ∧ (s.port c.dest).queue.length < (s.port c.dest).cfg.queueLimit
    (condition → 1 ≤ s.freeCount → ∃ b u t, Allocated s u b ∧ exec .noticeBuild s = .next t
      ∧ t = { u with ports := t.ports, pool := t.pool, notices := t.notices }
      ∧ (let rs := u.notices.queue.take 12
         let payload := noticePayload rs
         let h : Header :=
          { kind := .notice, prio := c.prio, hop := 7, tag := c.tag, payloadLength := BitVec.ofNat 8 payload.length }
         t.pool = (u.setBuf b { refs := 1, bytes := frameBytes h payload }).pool)
      ∧ (∀ p, t.port p = if p = c.dest then
            { u.port p with
              queue := insertEntry { buf := b, prio := c.prio, time := s.localTime, origin := .notice }
                (u.port p).queue }
          else u.port p)
      ∧ t.notices.waiting = some c.dest ∧ t.notices.cfg = c ∧ t.notices.lost = 0
      ∧ (u.notices.lost = 0 → t.notices.queue = u.notices.queue.drop 12 ∧ t.notices.nextSeq = u.notices.nextSeq)
      ∧ (u.notices.lost ≠ 0 → c.mask.getLsbD 10 = false →
          t.notices.queue = u.notices.queue.drop 12 ∧ t.notices.nextSeq = u.notices.nextSeq)
      ∧ (u.notices.lost ≠ 0 → c.mask.getLsbD 10 = true → t.notices.nextSeq = u.notices.nextSeq + 1
          ∧ t.notices.queue = u.notices.queue.drop 12 ++
            [{ seq := u.notices.nextSeq, kind := .noticesLost, time := s.cellTime, subject := 0
               detail := BitVec.ofNat 16 (min u.notices.lost.toNat 65535) }]))
    ∧ (¬ condition ∨ s.freeCount = 0 → exec .noticeBuild s = .next s))

/-! ### What every step keeps -/

/-- From every state in which the flows are within R61, R63 and R85 (settings in range; state, miss count and deadline
as the table has them; the allowance at most burst x 1000), a step leads to another. -/
def Obligations.EveryStepKeepsTheFlows : Prop :=
  ∀ s t : State, s.flowsInv → step s = .next t → t.flowsInv

/-- From every state in which the ports are within R107, R119, R124, R130 to R133 and R138 (settings in range; the
queue in priority order and at most 48 deep; queue and transmitter empty outside UP; score, warned flag, leak and
state tied as the rules tie them), a step leads to another; and so for a port that is enabled and accepts management
(R178). -/
def Obligations.EveryStepKeepsThePorts : Prop :=
  (∀ s t : State, s.portsInv → step s = .next t → t.portsInv)
  ∧ (∀ s t : State, s.reachable → step s = .next t → t.reachable)

/-- From every state in which the shadow bank is as R23 and R37 bound it (FREE, equal to the active bank; MIRRORING,
equal at every position already mirrored) and a lease in EDITING is of 1 to 600 s (R25), a step leads to another; and
so for the Agent within R145 and R150: at most 4 requests, at most 4 requesters, no key twice, and the lease's holder
among them. -/
def Obligations.EveryStepKeepsTheBanksAndRequesters : Prop :=
  (∀ s t : State, s.banksInv → step s = .next t → t.banksInv)
  ∧ (∀ s t : State, s.agentInv → step s = .next t → t.agentInv)

/-- From every state in which every buffer's reference count is the number of its holders, free buffers are empty, and
the buffers of receptions and requests are in one hand (R97, R100, R125, R145), a step leads to another; and so for
the notice queue, at most 32 long, and the waiting frame, the one NOTICE frame on an egress queue (R188, R191, R192).
-/
def Obligations.EveryStepKeepsTheReferencesAndNotices : Prop :=
  (∀ s t : State, s.refsInv → step s = .next t → t.refsInv)
  ∧ (∀ s t : State, s.noticesInv → step s = .next t → t.noticesInv)

/-- The state after reset meets every one of these invariants (its straps and lane signals are the model's choice, log
3). -/
def Obligations.ResetMeetsTheInvariants : Prop :=
  State.reset.flowsInv ∧ State.reset.portsInv ∧ State.reset.reachable ∧ State.reset.banksInv ∧ State.reset.agentInv
    ∧ State.reset.refsInv ∧ State.reset.noticesInv

/-! ### Encodings -/

/-- The code group sent for a symbol decodes to it, and no two symbols share one; the frame built around a payload of
at most 128 bytes carries a good header check and frame check, its header and its payload (R198, R199). The images of
rules, flows and ports and their bytes give each other back; and the stored form of a checked rule, flow or port gives
itself back through its image (R17, R201, R202). -/
def Obligations.EncodingsRoundTrip : Prop :=
  ((∀ sym c, encodeSymbol sym = some c → decodeSymbol c = sym)
  ∧ (∀ c, decodeSymbol c ≠ .invalid → encodeSymbol (decodeSymbol c) = some c)
  ∧ ∀ (h : Header) (payload : List Byte), payload.length ≤ 128 → h.payloadLength = BitVec.ofNat 8 payload.length →
      let l := frameBytes h payload
      l.length = payload.length + 8 ∧ headerCheck (l.take 5) = byteAt l 5 ∧ goodFrame l ∧ headerOf l = h
        ∧ payloadOf l = payload ∧ wireBytes l = l)
  ∧ ((∀ m, (ruleImageBytes m).length = 18 ∧ ruleImageOf (ruleImageBytes m) = m)
  ∧ (∀ l : List Byte, l.length = 18 → ruleImageBytes (ruleImageOf l) = l)
  ∧ (∀ m, (flowImageBytes m).length = 15 ∧ flowImageOf (flowImageBytes m) = m)
  ∧ (∀ m, (portImageBytes m).length = 10 ∧ portImageOf (portImageBytes m) = m)
  ∧ (∀ m, ruleImageOk m = true → m.valid = true →
      ruleImageOk (ruleImage (ruleOfImage m)) = true ∧ ruleOfImage (ruleImage (ruleOfImage m)) = ruleOfImage m
        ∧ (ruleOfImage m).matchValue &&& ~~~(ruleOfImage m).matchMask = 0)
  ∧ (∀ c : FlowConfig, c.wf → flowImageOk (flowImage c) = true ∧ flowConfigOf (flowImage c) = c)
  ∧ (∀ c : PortConfig, c.wf → portImageOk (portImage c) = true ∧ portConfigOf (portImage c) = c))
end

