-- ==== Sys2Proof/Laws/State.lean ====
section
/-! SUPPORT. The small lemmas of the state record: what reading one element gives after an update, and, for each
update of `State`, one lemma a field it leaves alone. -/

namespace Sys2Proof.Machine

/-! ### Vectors read by an index of their own size -/

theorem get_eq_getElem {α : Type} {n : Nat} (v : Vector α n) (i : Fin n) : v.get i = v[i.val] := rfl

@[simp] theorem get_set_same {α : Type} {n : Nat} (v : Vector α n) (i : Fin n) (x : α) : (v.set i x).get i = x := by
  simp [get_eq_getElem]

theorem get_set_ne {α : Type} {n : Nat} (v : Vector α n) {i j : Fin n} (x : α) (h : j ≠ i) :
    (v.set i x).get j = v.get j := by
  have : (i : Nat) ≠ j := fun e => h (Fin.ext e.symm)
  simp [get_eq_getElem, this]

theorem get_set {α : Type} {n : Nat} (v : Vector α n) (i j : Fin n) (x : α) :
    (v.set i x).get j = if j = i then x else v.get j := by
  by_cases h : j = i
  · subst h; simp
  · simp [h, get_set_ne]

@[simp] theorem get_ofFn {α : Type} {n : Nat} (f : Fin n → α) (i : Fin n) : (Vector.ofFn f).get i = f i := by
  simp [get_eq_getElem]

@[simp] theorem get_replicate {α : Type} {n : Nat} (a : α) (i : Fin n) : (Vector.replicate n a).get i = a := by
  simp [get_eq_getElem]

theorem ext_get {α : Type} {n : Nat} {v w : Vector α n} (h : ∀ i, v.get i = w.get i) : v = w := by
  apply Vector.ext
  intro i hi
  exact h ⟨i, hi⟩

/-! ### Receptions -/

section
variable (b : Option BufId) (l : List Byte)

@[simp] theorem Reception.inside_idle : Reception.idle.inside = none := rfl
@[simp] theorem Reception.inside_ignoring : Reception.ignoring.inside = none := rfl
@[simp] theorem Reception.inside_frame : (Reception.frame b l).inside = some (b, l) := rfl
@[simp] theorem Reception.inside_stripped : (Reception.stripped l).inside = some (none, l) := rfl
@[simp] theorem Reception.buffer_idle : Reception.idle.buffer = none := rfl
@[simp] theorem Reception.buffer_ignoring : Reception.ignoring.buffer = none := rfl
@[simp] theorem Reception.buffer_frame : (Reception.frame b l).buffer = b := rfl
@[simp] theorem Reception.buffer_stripped : (Reception.stripped l).buffer = none := rfl
@[simp] theorem Reception.later_idle : Reception.idle.later = .idle := rfl
@[simp] theorem Reception.later_ignoring : Reception.ignoring.later = .ignoring := rfl
@[simp] theorem Reception.later_frame : (Reception.frame b l).later = .frame b l := rfl
@[simp] theorem Reception.later_stripped : (Reception.stripped l).later = .frame none l := rfl
@[simp] theorem Reception.inside_later (x : Reception) : x.later.inside = x.inside := by cases x <;> rfl
@[simp] theorem Reception.buffer_later (x : Reception) : x.later.buffer = x.buffer := by cases x <;> rfl

end

/-! ### One field, one update -/

section
variable (s : State) (p : Port) (x : PortRec)

@[simp] theorem State.setPort_running : (s.setPort p x).running = s.running := rfl
@[simp] theorem State.setPort_straps : (s.setPort p x).straps = s.straps := rfl
@[simp] theorem State.setPort_localTime : (s.setPort p x).localTime = s.localTime := rfl
@[simp] theorem State.setPort_phase : (s.setPort p x).phase = s.phase := rfl
@[simp] theorem State.setPort_offset : (s.setPort p x).offset = s.offset := rfl
@[simp] theorem State.setPort_pool : (s.setPort p x).pool = s.pool := rfl
@[simp] theorem State.setPort_banks : (s.setPort p x).banks = s.banks := rfl
@[simp] theorem State.setPort_active : (s.setPort p x).active = s.active := rfl
@[simp] theorem State.setPort_hits : (s.setPort p x).hits = s.hits := rfl
@[simp] theorem State.setPort_ctrl : (s.setPort p x).ctrl = s.ctrl := rfl
@[simp] theorem State.setPort_flows : (s.setPort p x).flows = s.flows := rfl
@[simp] theorem State.setPort_agent : (s.setPort p x).agent = s.agent := rfl
@[simp] theorem State.setPort_notices : (s.setPort p x).notices = s.notices := rfl
@[simp] theorem State.setPort_pending : (s.setPort p x).pending = s.pending := rfl

end

section
variable (s : State) (i : FlowIx) (f : FlowEntry)

@[simp] theorem State.setFlow_running : (s.setFlow i f).running = s.running := rfl
@[simp] theorem State.setFlow_straps : (s.setFlow i f).straps = s.straps := rfl
@[simp] theorem State.setFlow_localTime : (s.setFlow i f).localTime = s.localTime := rfl
@[simp] theorem State.setFlow_phase : (s.setFlow i f).phase = s.phase := rfl
@[simp] theorem State.setFlow_offset : (s.setFlow i f).offset = s.offset := rfl
@[simp] theorem State.setFlow_ports : (s.setFlow i f).ports = s.ports := rfl
@[simp] theorem State.setFlow_pool : (s.setFlow i f).pool = s.pool := rfl
@[simp] theorem State.setFlow_banks : (s.setFlow i f).banks = s.banks := rfl
@[simp] theorem State.setFlow_active : (s.setFlow i f).active = s.active := rfl
@[simp] theorem State.setFlow_hits : (s.setFlow i f).hits = s.hits := rfl
@[simp] theorem State.setFlow_ctrl : (s.setFlow i f).ctrl = s.ctrl := rfl
@[simp] theorem State.setFlow_agent : (s.setFlow i f).agent = s.agent := rfl
@[simp] theorem State.setFlow_notices : (s.setFlow i f).notices = s.notices := rfl
@[simp] theorem State.setFlow_pending : (s.setFlow i f).pending = s.pending := rfl

end

section
variable (s : State) (b : BufId) (x : Buffer)

@[simp] theorem State.setBuf_running : (s.setBuf b x).running = s.running := rfl
@[simp] theorem State.setBuf_straps : (s.setBuf b x).straps = s.straps := rfl
@[simp] theorem State.setBuf_localTime : (s.setBuf b x).localTime = s.localTime := rfl
@[simp] theorem State.setBuf_phase : (s.setBuf b x).phase = s.phase := rfl
@[simp] theorem State.setBuf_offset : (s.setBuf b x).offset = s.offset := rfl
@[simp] theorem State.setBuf_ports : (s.setBuf b x).ports = s.ports := rfl
@[simp] theorem State.setBuf_banks : (s.setBuf b x).banks = s.banks := rfl
@[simp] theorem State.setBuf_active : (s.setBuf b x).active = s.active := rfl
@[simp] theorem State.setBuf_hits : (s.setBuf b x).hits = s.hits := rfl
@[simp] theorem State.setBuf_ctrl : (s.setBuf b x).ctrl = s.ctrl := rfl
@[simp] theorem State.setBuf_flows : (s.setBuf b x).flows = s.flows := rfl
@[simp] theorem State.setBuf_agent : (s.setBuf b x).agent = s.agent := rfl
@[simp] theorem State.setBuf_notices : (s.setBuf b x).notices = s.notices := rfl
@[simp] theorem State.setBuf_pending : (s.setBuf b x).pending = s.pending := rfl

end

section
variable (s : State) (b : Bank)

@[simp] theorem State.setShadow_running : (s.setShadow b).running = s.running := rfl
@[simp] theorem State.setShadow_straps : (s.setShadow b).straps = s.straps := rfl
@[simp] theorem State.setShadow_localTime : (s.setShadow b).localTime = s.localTime := rfl
@[simp] theorem State.setShadow_phase : (s.setShadow b).phase = s.phase := rfl
@[simp] theorem State.setShadow_offset : (s.setShadow b).offset = s.offset := rfl
@[simp] theorem State.setShadow_ports : (s.setShadow b).ports = s.ports := rfl
@[simp] theorem State.setShadow_pool : (s.setShadow b).pool = s.pool := rfl
@[simp] theorem State.setShadow_active : (s.setShadow b).active = s.active := rfl
@[simp] theorem State.setShadow_hits : (s.setShadow b).hits = s.hits := rfl
@[simp] theorem State.setShadow_ctrl : (s.setShadow b).ctrl = s.ctrl := rfl
@[simp] theorem State.setShadow_flows : (s.setShadow b).flows = s.flows := rfl
@[simp] theorem State.setShadow_agent : (s.setShadow b).agent = s.agent := rfl
@[simp] theorem State.setShadow_notices : (s.setShadow b).notices = s.notices := rfl
@[simp] theorem State.setShadow_pending : (s.setShadow b).pending = s.pending := rfl

end

section
variable (s : State) (k : NoticeKind) (c : Instant) (u : Byte) (d : Half)

@[simp] theorem State.raiseAt_running : (s.raiseAt k c u d).running = s.running := rfl
@[simp] theorem State.raiseAt_straps : (s.raiseAt k c u d).straps = s.straps := rfl
@[simp] theorem State.raiseAt_localTime : (s.raiseAt k c u d).localTime = s.localTime := rfl
@[simp] theorem State.raiseAt_phase : (s.raiseAt k c u d).phase = s.phase := rfl
@[simp] theorem State.raiseAt_offset : (s.raiseAt k c u d).offset = s.offset := rfl
@[simp] theorem State.raiseAt_ports : (s.raiseAt k c u d).ports = s.ports := rfl
@[simp] theorem State.raiseAt_pool : (s.raiseAt k c u d).pool = s.pool := rfl
@[simp] theorem State.raiseAt_banks : (s.raiseAt k c u d).banks = s.banks := rfl
@[simp] theorem State.raiseAt_active : (s.raiseAt k c u d).active = s.active := rfl
@[simp] theorem State.raiseAt_hits : (s.raiseAt k c u d).hits = s.hits := rfl
@[simp] theorem State.raiseAt_ctrl : (s.raiseAt k c u d).ctrl = s.ctrl := rfl
@[simp] theorem State.raiseAt_flows : (s.raiseAt k c u d).flows = s.flows := rfl
@[simp] theorem State.raiseAt_agent : (s.raiseAt k c u d).agent = s.agent := rfl
@[simp] theorem State.raiseAt_pending : (s.raiseAt k c u d).pending = s.pending := rfl

end

section
variable (s : State) (k : NoticeKind) (u : Byte) (d : Half)

@[simp] theorem State.raise_running : (s.raise k u d).running = s.running := rfl
@[simp] theorem State.raise_straps : (s.raise k u d).straps = s.straps := rfl
@[simp] theorem State.raise_localTime : (s.raise k u d).localTime = s.localTime := rfl
@[simp] theorem State.raise_phase : (s.raise k u d).phase = s.phase := rfl
@[simp] theorem State.raise_offset : (s.raise k u d).offset = s.offset := rfl
@[simp] theorem State.raise_ports : (s.raise k u d).ports = s.ports := rfl
@[simp] theorem State.raise_pool : (s.raise k u d).pool = s.pool := rfl
@[simp] theorem State.raise_banks : (s.raise k u d).banks = s.banks := rfl
@[simp] theorem State.raise_active : (s.raise k u d).active = s.active := rfl
@[simp] theorem State.raise_hits : (s.raise k u d).hits = s.hits := rfl
@[simp] theorem State.raise_ctrl : (s.raise k u d).ctrl = s.ctrl := rfl
@[simp] theorem State.raise_flows : (s.raise k u d).flows = s.flows := rfl
@[simp] theorem State.raise_agent : (s.raise k u d).agent = s.agent := rfl
@[simp] theorem State.raise_pending : (s.raise k u d).pending = s.pending := rfl

end

section
variable (s : State) (c : Ctl)

@[simp] theorem State.sendToUp_running : (s.sendToUp c).running = s.running := rfl
@[simp] theorem State.sendToUp_straps : (s.sendToUp c).straps = s.straps := rfl
@[simp] theorem State.sendToUp_localTime : (s.sendToUp c).localTime = s.localTime := rfl
@[simp] theorem State.sendToUp_phase : (s.sendToUp c).phase = s.phase := rfl
@[simp] theorem State.sendToUp_offset : (s.sendToUp c).offset = s.offset := rfl
@[simp] theorem State.sendToUp_pool : (s.sendToUp c).pool = s.pool := rfl
@[simp] theorem State.sendToUp_banks : (s.sendToUp c).banks = s.banks := rfl
@[simp] theorem State.sendToUp_active : (s.sendToUp c).active = s.active := rfl
@[simp] theorem State.sendToUp_hits : (s.sendToUp c).hits = s.hits := rfl
@[simp] theorem State.sendToUp_ctrl : (s.sendToUp c).ctrl = s.ctrl := rfl
@[simp] theorem State.sendToUp_flows : (s.sendToUp c).flows = s.flows := rfl
@[simp] theorem State.sendToUp_agent : (s.sendToUp c).agent = s.agent := rfl
@[simp] theorem State.sendToUp_notices : (s.sendToUp c).notices = s.notices := rfl
@[simp] theorem State.sendToUp_pending : (s.sendToUp c).pending = s.pending := rfl

end

section
variable (s : State) (i : RulePos)

@[simp] theorem State.bumpHit_running : (s.bumpHit i).running = s.running := rfl
@[simp] theorem State.bumpHit_straps : (s.bumpHit i).straps = s.straps := rfl
@[simp] theorem State.bumpHit_localTime : (s.bumpHit i).localTime = s.localTime := rfl
@[simp] theorem State.bumpHit_phase : (s.bumpHit i).phase = s.phase := rfl
@[simp] theorem State.bumpHit_offset : (s.bumpHit i).offset = s.offset := rfl
@[simp] theorem State.bumpHit_ports : (s.bumpHit i).ports = s.ports := rfl
@[simp] theorem State.bumpHit_pool : (s.bumpHit i).pool = s.pool := rfl
@[simp] theorem State.bumpHit_banks : (s.bumpHit i).banks = s.banks := rfl
@[simp] theorem State.bumpHit_active : (s.bumpHit i).active = s.active := rfl
@[simp] theorem State.bumpHit_ctrl : (s.bumpHit i).ctrl = s.ctrl := rfl
@[simp] theorem State.bumpHit_flows : (s.bumpHit i).flows = s.flows := rfl
@[simp] theorem State.bumpHit_agent : (s.bumpHit i).agent = s.agent := rfl
@[simp] theorem State.bumpHit_notices : (s.bumpHit i).notices = s.notices := rfl
@[simp] theorem State.bumpHit_pending : (s.bumpHit i).pending = s.pending := rfl

end

section
variable (s : State)

@[simp] theorem State.beginTaking_running : (s.beginTaking).running = s.running := rfl
@[simp] theorem State.beginTaking_straps : (s.beginTaking).straps = s.straps := rfl
@[simp] theorem State.beginTaking_localTime : (s.beginTaking).localTime = s.localTime := rfl
@[simp] theorem State.beginTaking_phase : (s.beginTaking).phase = s.phase := rfl
@[simp] theorem State.beginTaking_offset : (s.beginTaking).offset = s.offset := rfl
@[simp] theorem State.beginTaking_ports : (s.beginTaking).ports = s.ports := rfl
@[simp] theorem State.beginTaking_pool : (s.beginTaking).pool = s.pool := rfl
@[simp] theorem State.beginTaking_banks : (s.beginTaking).banks = s.banks := rfl
@[simp] theorem State.beginTaking_active : (s.beginTaking).active = s.active := rfl
@[simp] theorem State.beginTaking_hits : (s.beginTaking).hits = s.hits := rfl
@[simp] theorem State.beginTaking_ctrl : (s.beginTaking).ctrl = s.ctrl := rfl
@[simp] theorem State.beginTaking_flows : (s.beginTaking).flows = s.flows := rfl
@[simp] theorem State.beginTaking_notices : (s.beginTaking).notices = s.notices := rfl
@[simp] theorem State.beginTaking_pending : (s.beginTaking).pending = s.pending := rfl

end

section
variable (s : State) (k : Key) (n : Half)

@[simp] theorem State.placeRequester_running : (s.placeRequester k n).running = s.running := rfl
@[simp] theorem State.placeRequester_straps : (s.placeRequester k n).straps = s.straps := rfl
@[simp] theorem State.placeRequester_localTime : (s.placeRequester k n).localTime = s.localTime := rfl
@[simp] theorem State.placeRequester_phase : (s.placeRequester k n).phase = s.phase := rfl
@[simp] theorem State.placeRequester_offset : (s.placeRequester k n).offset = s.offset := rfl
@[simp] theorem State.placeRequester_ports : (s.placeRequester k n).ports = s.ports := rfl
@[simp] theorem State.placeRequester_pool : (s.placeRequester k n).pool = s.pool := rfl
@[simp] theorem State.placeRequester_banks : (s.placeRequester k n).banks = s.banks := rfl
@[simp] theorem State.placeRequester_active : (s.placeRequester k n).active = s.active := rfl
@[simp] theorem State.placeRequester_hits : (s.placeRequester k n).hits = s.hits := rfl
@[simp] theorem State.placeRequester_ctrl : (s.placeRequester k n).ctrl = s.ctrl := rfl
@[simp] theorem State.placeRequester_flows : (s.placeRequester k n).flows = s.flows := rfl
@[simp] theorem State.placeRequester_notices : (s.placeRequester k n).notices = s.notices := rfl
@[simp] theorem State.placeRequester_pending : (s.placeRequester k n).pending = s.pending := rfl

end

section
variable (s : State) (k : Key) (n : Half) (l : List Byte)

@[simp] theorem State.storeReply_running : (s.storeReply k n l).running = s.running := rfl
@[simp] theorem State.storeReply_straps : (s.storeReply k n l).straps = s.straps := rfl
@[simp] theorem State.storeReply_localTime : (s.storeReply k n l).localTime = s.localTime := rfl
@[simp] theorem State.storeReply_phase : (s.storeReply k n l).phase = s.phase := rfl
@[simp] theorem State.storeReply_offset : (s.storeReply k n l).offset = s.offset := rfl
@[simp] theorem State.storeReply_ports : (s.storeReply k n l).ports = s.ports := rfl
@[simp] theorem State.storeReply_pool : (s.storeReply k n l).pool = s.pool := rfl
@[simp] theorem State.storeReply_banks : (s.storeReply k n l).banks = s.banks := rfl
@[simp] theorem State.storeReply_active : (s.storeReply k n l).active = s.active := rfl
@[simp] theorem State.storeReply_hits : (s.storeReply k n l).hits = s.hits := rfl
@[simp] theorem State.storeReply_ctrl : (s.storeReply k n l).ctrl = s.ctrl := rfl
@[simp] theorem State.storeReply_flows : (s.storeReply k n l).flows = s.flows := rfl
@[simp] theorem State.storeReply_notices : (s.storeReply k n l).notices = s.notices := rfl
@[simp] theorem State.storeReply_pending : (s.storeReply k n l).pending = s.pending := rfl

end

section
variable (s : State)

@[simp] theorem State.countReplyDropped_running : (s.countReplyDropped).running = s.running := rfl
@[simp] theorem State.countReplyDropped_straps : (s.countReplyDropped).straps = s.straps := rfl
@[simp] theorem State.countReplyDropped_localTime : (s.countReplyDropped).localTime = s.localTime := rfl
@[simp] theorem State.countReplyDropped_phase : (s.countReplyDropped).phase = s.phase := rfl
@[simp] theorem State.countReplyDropped_offset : (s.countReplyDropped).offset = s.offset := rfl
@[simp] theorem State.countReplyDropped_ports : (s.countReplyDropped).ports = s.ports := rfl
@[simp] theorem State.countReplyDropped_pool : (s.countReplyDropped).pool = s.pool := rfl
@[simp] theorem State.countReplyDropped_banks : (s.countReplyDropped).banks = s.banks := rfl
@[simp] theorem State.countReplyDropped_active : (s.countReplyDropped).active = s.active := rfl
@[simp] theorem State.countReplyDropped_hits : (s.countReplyDropped).hits = s.hits := rfl
@[simp] theorem State.countReplyDropped_ctrl : (s.countReplyDropped).ctrl = s.ctrl := rfl
@[simp] theorem State.countReplyDropped_flows : (s.countReplyDropped).flows = s.flows := rfl
@[simp] theorem State.countReplyDropped_notices : (s.countReplyDropped).notices = s.notices := rfl
@[simp] theorem State.countReplyDropped_pending : (s.countReplyDropped).pending = s.pending := rfl

end

section
variable (s : State) (k : Key)

@[simp] theorem State.unprotect_running : (s.unprotect k).running = s.running := rfl
@[simp] theorem State.unprotect_straps : (s.unprotect k).straps = s.straps := rfl
@[simp] theorem State.unprotect_localTime : (s.unprotect k).localTime = s.localTime := rfl
@[simp] theorem State.unprotect_phase : (s.unprotect k).phase = s.phase := rfl
@[simp] theorem State.unprotect_offset : (s.unprotect k).offset = s.offset := rfl
@[simp] theorem State.unprotect_ports : (s.unprotect k).ports = s.ports := rfl
@[simp] theorem State.unprotect_pool : (s.unprotect k).pool = s.pool := rfl
@[simp] theorem State.unprotect_banks : (s.unprotect k).banks = s.banks := rfl
@[simp] theorem State.unprotect_active : (s.unprotect k).active = s.active := rfl
@[simp] theorem State.unprotect_hits : (s.unprotect k).hits = s.hits := rfl
@[simp] theorem State.unprotect_ctrl : (s.unprotect k).ctrl = s.ctrl := rfl
@[simp] theorem State.unprotect_flows : (s.unprotect k).flows = s.flows := rfl
@[simp] theorem State.unprotect_notices : (s.unprotect k).notices = s.notices := rfl
@[simp] theorem State.unprotect_pending : (s.unprotect k).pending = s.pending := rfl

end

/-! ### Reading one element after an update -/

@[simp] theorem State.port_setPort_same (s : State) (p : Port) (x : PortRec) : (s.setPort p x).port p = x := by
  simp [State.port, State.setPort]

theorem State.port_setPort_ne (s : State) {p q : Port} (x : PortRec) (h : q ≠ p) : (s.setPort p x).port q = s.port q := by
  simp [State.port, State.setPort, get_set_ne _ _ h]

theorem State.port_setPort (s : State) (p q : Port) (x : PortRec) :
    (s.setPort p x).port q = if q = p then x else s.port q := by
  simp [State.port, State.setPort, get_set]

@[simp] theorem State.port_setFlow (s : State) (i : FlowIx) (f : FlowEntry) (p : Port) :
    (s.setFlow i f).port p = s.port p := rfl
@[simp] theorem State.port_setBuf (s : State) (b : BufId) (x : Buffer) (p : Port) : (s.setBuf b x).port p = s.port p := rfl
@[simp] theorem State.port_raiseAt (s : State) (k : NoticeKind) (c : Instant) (u : Byte) (d : Half) (p : Port) :
    (s.raiseAt k c u d).port p = s.port p := rfl
@[simp] theorem State.port_raise (s : State) (k : NoticeKind) (u : Byte) (d : Half) (p : Port) :
    (s.raise k u d).port p = s.port p := rfl
@[simp] theorem State.port_sendToUp (s : State) (c : Ctl) (p : Port) :
    (s.sendToUp c).port p = if (s.port p).isUp then { s.port p with ctl := (s.port p).ctl ++ [c] } else s.port p := by
  show (Vector.ofFn _).get p = _
  rw [get_ofFn]

@[simp] theorem State.flow_setFlow_same (s : State) (i : FlowIx) (f : FlowEntry) : (s.setFlow i f).flow i = f := by
  simp [State.flow, State.setFlow]
theorem State.flow_setFlow (s : State) (i j : FlowIx) (f : FlowEntry) :
    (s.setFlow i f).flow j = if j = i then f else s.flow j := by
  simp [State.flow, State.setFlow, get_set]
@[simp] theorem State.flow_setPort (s : State) (p : Port) (x : PortRec) (i : FlowIx) :
    (s.setPort p x).flow i = s.flow i := rfl

@[simp] theorem State.buf_setBuf_same (s : State) (b : BufId) (x : Buffer) : (s.setBuf b x).buf b = x := by
  simp [State.buf, State.setBuf]
theorem State.buf_setBuf_ne (s : State) {b c : BufId} (x : Buffer) (h : c ≠ b) : (s.setBuf b x).buf c = s.buf c := by
  simp [State.buf, State.setBuf, get_set_ne _ _ h]
theorem State.buf_setBuf (s : State) (b c : BufId) (x : Buffer) :
    (s.setBuf b x).buf c = if c = b then x else s.buf c := by
  simp [State.buf, State.setBuf, get_set]
@[simp] theorem State.buf_setPort (s : State) (p : Port) (x : PortRec) (b : BufId) : (s.setPort p x).buf b = s.buf b := rfl
@[simp] theorem State.buf_raiseAt (s : State) (k : NoticeKind) (c : Instant) (u : Byte) (d : Half) (b : BufId) :
    (s.raiseAt k c u d).buf b = s.buf b := rfl
@[simp] theorem State.buf_sendToUp (s : State) (c : Ctl) (b : BufId) : (s.sendToUp c).buf b = s.buf b := rfl

@[simp] theorem State.freeCount_setPort (s : State) (p : Port) (x : PortRec) :
    (s.setPort p x).freeCount = s.freeCount := rfl
@[simp] theorem State.freeCount_raiseAt (s : State) (k : NoticeKind) (c : Instant) (u : Byte) (d : Half) :
    (s.raiseAt k c u d).freeCount = s.freeCount := rfl
@[simp] theorem State.freeCount_sendToUp (s : State) (c : Ctl) : (s.sendToUp c).freeCount = s.freeCount := rfl

@[simp] theorem State.setPort_self (s : State) (p : Port) : s.setPort p (s.port p) = s := by
  have h : s.ports.set p (s.port p) = s.ports := by
    apply ext_get
    intro q
    rw [get_set]
    split
    · next h => subst h; rfl
    · rfl
  unfold State.setPort
  rw [h]

/-! ### The hit counters cleared -/

section
variable (s : State) (f c : Byte)

@[simp] theorem State.clearHits_running : (s.clearHits f c).running = s.running := by rw [State.clearHits]
@[simp] theorem State.clearHits_straps : (s.clearHits f c).straps = s.straps := by rw [State.clearHits]
@[simp] theorem State.clearHits_localTime : (s.clearHits f c).localTime = s.localTime := by rw [State.clearHits]
@[simp] theorem State.clearHits_phase : (s.clearHits f c).phase = s.phase := by rw [State.clearHits]
@[simp] theorem State.clearHits_offset : (s.clearHits f c).offset = s.offset := by rw [State.clearHits]
@[simp] theorem State.clearHits_ports : (s.clearHits f c).ports = s.ports := by rw [State.clearHits]
@[simp] theorem State.clearHits_pool : (s.clearHits f c).pool = s.pool := by rw [State.clearHits]
@[simp] theorem State.clearHits_banks : (s.clearHits f c).banks = s.banks := by rw [State.clearHits]
@[simp] theorem State.clearHits_active : (s.clearHits f c).active = s.active := by rw [State.clearHits]
@[simp] theorem State.clearHits_ctrl : (s.clearHits f c).ctrl = s.ctrl := by rw [State.clearHits]
@[simp] theorem State.clearHits_flows : (s.clearHits f c).flows = s.flows := by rw [State.clearHits]
@[simp] theorem State.clearHits_agent : (s.clearHits f c).agent = s.agent := by rw [State.clearHits]
@[simp] theorem State.clearHits_notices : (s.clearHits f c).notices = s.notices := by rw [State.clearHits]
@[simp] theorem State.clearHits_pending : (s.clearHits f c).pending = s.pending := by rw [State.clearHits]

@[simp] theorem State.clearHits_get (i : RulePos) :
    (s.clearHits f c).hits.get i = if inRange f c i.val then 0 else s.hits.get i := by simp [State.clearHits]

end

end Sys2Proof.Machine
end

