-- ==== Sys2Proof/Laws/Pool.lean ====
section
/-! SUPPORT. What the operations of the frame buffer pool do: the free count after a buffer changes, allocation,
giving references back, the hold decisions, and that a free buffer stays empty. -/

namespace Sys2Proof.Machine

/-! ### Frames -/

theorem sameButLinks_refl (s : State) : s.sameButLinks s := rfl

theorem sameButLinks_trans {s t u : State} (h : s.sameButLinks t) (k : t.sameButLinks u) : s.sameButLinks u := by
  unfold State.sameButLinks at *
  rw [k, h]

theorem setPort_sameButLinks (s : State) (p : Port) (x : PortRec) : s.sameButLinks (s.setPort p x) := rfl
theorem setBuf_sameButLinks (s : State) (b : BufId) (x : Buffer) : s.sameButLinks (s.setBuf b x) := rfl
theorem raiseAt_sameButLinks (s : State) (k : NoticeKind) (c : Instant) (u : Byte) (d : Half) :
    s.sameButLinks (s.raiseAt k c u d) := rfl
theorem sendToUp_sameButLinks (s : State) (c : Ctl) : s.sameButLinks (s.sendToUp c) := rfl

/-! ### The free count -/

theorem countP_update {ι : Type} [DecidableEq ι] (l : List ι) (hl : l.Nodup) (b : ι) (hb : b ∈ l) (g : ι → Bool) (v : Bool) :
    l.countP (fun i => if i = b then v else g i) + (if g b then 1 else 0) = l.countP g + (if v then 1 else 0) := by
  induction l with
  | nil => simp at hb
  | cons a l ih =>
    rw [List.nodup_cons] at hl
    by_cases h : a = b
    · subst h
      have : l.countP (fun i => if i = a then v else g i) = l.countP g := by
        apply List.countP_congr
        intro i hi
        have : i ≠ a := fun e => hl.1 (e ▸ hi)
        simp [this]
      rw [List.countP_cons, List.countP_cons, this]
      simp
      omega
    · have hb' : b ∈ l := by
        rcases List.mem_cons.1 hb with rfl | hb
        · exact absurd rfl h
        · exact hb
      have := ih hl.2 hb'
      rw [List.countP_cons, List.countP_cons]
      simp only [h, if_false]
      omega

/-- A change of one buffer moves the free count by that buffer alone. -/
theorem freeCount_setBuf (s : State) (b : BufId) (x : Buffer) :
    (s.setBuf b x).freeCount + (if (s.buf b).refs = 0 then 1 else 0)
      = s.freeCount + (if x.refs = 0 then 1 else 0) := by
  have h := countP_update (List.finRange 96) (List.nodup_finRange 96) b (List.mem_finRange b)
    (fun c => (s.buf c).refs == 0) (x.refs == 0)
  have e : (s.setBuf b x).freeCount
      = (List.finRange 96).countP (fun c => if c = b then x.refs == 0 else (s.buf c).refs == 0) := by
    show (List.finRange 96).countP (fun c => ((s.setBuf b x).buf c).refs == 0) = _
    congr 1
    funext c
    rw [State.buf_setBuf]
    split <;> rfl
  rw [e]
  simp only [beq_iff_eq] at h
  exact h

theorem exists_free {s : State} (h : 1 ≤ s.freeCount) : ∃ b, s.pool.firstFree = some b := by
  have : 0 < (List.finRange 96).countP (fun b => (s.pool.bufs.get b).refs == 0) := h
  obtain ⟨b, hb, hp⟩ := List.countP_pos_iff.1 this
  cases hf : s.pool.firstFree with
  | some c => exact ⟨c, rfl⟩
  | none => exact absurd hp (List.find?_eq_none.1 hf b hb)

theorem firstFree_refs {s : State} {b : BufId} (h : s.pool.firstFree = some b) : (s.buf b).refs = 0 := by
  have := List.find?_some h
  exact eq_of_beq this

/-! ### Allocation (R98, R99, R102) -/

section
variable (s : State) (b : BufId)

theorem takeBuffer_sameButLinks : s.sameButLinks (s.takeBuffer b) := rfl
@[simp] theorem takeBuffer_port (p : Port) : (s.takeBuffer b).port p = s.port p := rfl
@[simp] theorem takeBuffer_notices : (s.takeBuffer b).notices = s.notices := rfl
@[simp] theorem takeBuffer_hold : (s.takeBuffer b).pool.hold = s.pool.hold := rfl
@[simp] theorem takeBuffer_holdEntries : (s.takeBuffer b).pool.holdEntries = s.pool.holdEntries := rfl
theorem takeBuffer_buf (c : BufId) :
    (s.takeBuffer b).buf c = if c = b then { refs := 1, bytes := [] } else s.buf c := State.buf_setBuf s b c _
@[simp] theorem takeBuffer_freeCount_eq : (s.takeBuffer b).freeCount = (s.setBuf b { refs := 1, bytes := [] }).freeCount := rfl

theorem takeBuffer_freeCount (h : (s.buf b).refs = 0) : (s.takeBuffer b).freeCount + 1 = s.freeCount := by
  have := freeCount_setBuf s b { refs := 1, bytes := [] }
  simp [h] at this
  simpa using this

theorem takeBuffer_minFree (h : (s.buf b).refs = 0) : (s.takeBuffer b).pool.minFree = min s.pool.minFree (s.freeCount - 1) := by
  have := takeBuffer_freeCount s b h
  have e : (s.takeBuffer b).pool.minFree = min s.pool.minFree (s.takeBuffer b).freeCount := rfl
  rw [e]
  congr 1
  omega

end

/-- An allocation of at least one buffer fails exactly when too few are free. -/
theorem alloc_none {s : State} {n : Nat} (hn : 1 ≤ n) : s.alloc n = none ↔ s.freeCount < n := by
  unfold State.alloc
  split
  · simp [*]
  · next h =>
    obtain ⟨b, hb⟩ := exists_free (s := s) (by omega)
    simp [hb, h]

/-- All that a successful allocation does. -/
theorem alloc_some {s t : State} {n : Nat} {b : BufId} (h : s.alloc n = some (b, t)) :
    n ≤ s.freeCount ∧ (s.buf b).refs = 0 ∧ t = (s.takeBuffer b).decideAtAlloc := by
  unfold State.alloc at h
  split at h
  · cases h
  · next hn =>
    split at h
    · next c hc =>
      simp only [Option.some.injEq, Prod.mk.injEq] at h
      obtain ⟨rfl, rfl⟩ := h
      exact ⟨by omega, firstFree_refs hc, rfl⟩
    · cases h

/-- With enough free buffers an allocation succeeds. -/
theorem alloc_exists {s : State} {n : Nat} (hn : 1 ≤ n) (h : n ≤ s.freeCount) : ∃ b t, s.alloc n = some (b, t) := by
  cases e : s.alloc n with
  | some x => exact ⟨x.1, x.2, rfl⟩
  | none => exact absurd ((alloc_none hn).1 e) (by omega)

/-- The hold decision at an allocation that keeps the hold state (R102). -/
theorem decideAtAlloc_stay {s : State} (h : s.pool.hold ≠ .normal ∨ Config.holdEnter < s.freeCount) :
    s.decideAtAlloc = s := by
  unfold State.decideAtAlloc
  split
  · rfl
  · next hh =>
    rcases h with h | h
    · exact absurd hh h
    · rw [if_neg (by omega)]

/-- The hold decision at an allocation that enters HOLDING (R102). -/
theorem decideAtAlloc_enter {s : State} (h : s.pool.hold = .normal) (hf : s.freeCount ≤ Config.holdEnter) :
    s.decideAtAlloc =
      (({ s with pool := { s.pool with hold := .holding (s.localTime + Config.holdRepeatSpacing),
                                       holdEntries := s.pool.holdEntries + 1 } }).sendToUp .hold).raise
        .poolLow 0 (BitVec.ofNat 16 s.freeCount) := by
  unfold State.decideAtAlloc
  rw [h]
  simp only
  rw [if_pos hf]

theorem decideAtAlloc_sameButLinks (s : State) : s.sameButLinks s.decideAtAlloc := by
  unfold State.decideAtAlloc
  split
  · rfl
  · split <;> rfl

theorem decideAtAlloc_bufs (s : State) : s.decideAtAlloc.pool.bufs = s.pool.bufs := by
  unfold State.decideAtAlloc
  split
  · rfl
  · split <;> rfl

@[simp] theorem decideAtAlloc_buf (s : State) (b : BufId) : s.decideAtAlloc.buf b = s.buf b := by
  unfold State.buf
  rw [decideAtAlloc_bufs]

@[simp] theorem decideAtAlloc_freeCount (s : State) : s.decideAtAlloc.freeCount = s.freeCount := by
  unfold State.freeCount Pool.freeCount
  rw [decideAtAlloc_bufs]

@[simp] theorem decideAtAlloc_minFree (s : State) : s.decideAtAlloc.pool.minFree = s.pool.minFree := by
  unfold State.decideAtAlloc
  split
  · rfl
  · split <;> rfl

/-- A decision at an allocation changes no port but by the HOLD it hands over. -/
theorem decideAtAlloc_port (s : State) (p : Port) :
    s.decideAtAlloc.port p = { s.port p with ctl := (s.decideAtAlloc.port p).ctl } := by
  unfold State.decideAtAlloc
  split
  · rfl
  · split
    · simp only [State.port_raise, State.port_sendToUp]
      split <;> rfl
    · rfl

/-! ### References given back (R97, R100) -/

section
variable (s : State) (b : BufId)

theorem dropRef_sameButLinks : s.sameButLinks (s.dropRef b) := rfl
@[simp] theorem dropRef_port (p : Port) : (s.dropRef b).port p = s.port p := rfl
@[simp] theorem dropRef_notices : (s.dropRef b).notices = s.notices := rfl
@[simp] theorem dropRef_hold : (s.dropRef b).pool.hold = s.pool.hold := rfl
@[simp] theorem dropRef_minFree : (s.dropRef b).pool.minFree = s.pool.minFree := rfl
@[simp] theorem dropRef_holdEntries : (s.dropRef b).pool.holdEntries = s.pool.holdEntries := rfl
theorem dropRef_buf (c : BufId) : (s.dropRef b).buf c = if c = b then dropBuffer (s.buf b) else s.buf c :=
  State.buf_setBuf s b c _
@[simp] theorem dropRef_buf_same : (s.dropRef b).buf b = dropBuffer (s.buf b) := by simp [dropRef_buf]

theorem dropRef_freeCount_last (h : (s.buf b).refs = 1) : (s.dropRef b).freeCount = s.freeCount + 1 := by
  have := freeCount_setBuf s b (dropBuffer (s.buf b))
  have e : (dropBuffer (s.buf b)).refs = 0 := by simp [h, dropBuffer, freeBuffer]
  rw [e, h] at this
  exact this

theorem dropRef_freeCount_le : s.freeCount ≤ (s.dropRef b).freeCount := by
  have h := freeCount_setBuf s b (dropBuffer (s.buf b))
  have e : (s.dropRef b).freeCount = (s.setBuf b (dropBuffer (s.buf b))).freeCount := rfl
  rw [e]
  by_cases h0 : (s.buf b).refs = 0
  · simp [h0, dropBuffer, freeBuffer] at h
    simp [h, dropBuffer, h0, freeBuffer]
  · simp only [h0, if_false] at h
    omega

end

theorem dropRefs_nil (s : State) : s.dropRefs [] = s := rfl
theorem dropRefs_cons (s : State) (b : BufId) (bs : List BufId) : s.dropRefs (b :: bs) = (s.dropRef b).dropRefs bs := rfl

theorem dropRefs_append (s : State) (bs cs : List BufId) : s.dropRefs (bs ++ cs) = (s.dropRefs bs).dropRefs cs := by
  simp [State.dropRefs, List.foldl_append]

/-- Giving references back changes the buffers of the pool alone. -/
theorem dropRefs_only (s : State) (bs : List BufId) :
    s.dropRefs bs = { s with pool := { s.pool with bufs := (s.dropRefs bs).pool.bufs } } := by
  induction bs generalizing s with
  | nil => rfl
  | cons b bs ih =>
    rw [dropRefs_cons, ih]
    rfl

theorem dropRefs_sameButLinks (s : State) (bs : List BufId) : s.sameButLinks (s.dropRefs bs) := by
  rw [dropRefs_only]
  rfl

@[simp] theorem dropRefs_ports (s : State) (bs : List BufId) : (s.dropRefs bs).ports = s.ports := by rw [dropRefs_only]
@[simp] theorem dropRefs_port (s : State) (bs : List BufId) (p : Port) : (s.dropRefs bs).port p = s.port p := by
  unfold State.port
  rw [dropRefs_ports]
@[simp] theorem dropRefs_notices (s : State) (bs : List BufId) : (s.dropRefs bs).notices = s.notices := by
  rw [dropRefs_only]
@[simp] theorem dropRefs_hold (s : State) (bs : List BufId) : (s.dropRefs bs).pool.hold = s.pool.hold := by
  rw [dropRefs_only]

theorem dropRefs_freeCount_le (s : State) (bs : List BufId) : s.freeCount ≤ (s.dropRefs bs).freeCount := by
  induction bs generalizing s with
  | nil => exact Nat.le_refl _
  | cons b bs ih =>
    rw [dropRefs_cons]
    exact Nat.le_trans (dropRef_freeCount_le s b) (ih _)

/-- A buffer after its references in the list have been given back, one by one. -/
theorem dropRefs_buf (s : State) (bs : List BufId) (c : BufId) :
    (s.dropRefs bs).buf c = dropBuffer^[bs.count c] (s.buf c) := by
  induction bs generalizing s with
  | nil => rfl
  | cons b bs ih =>
    rw [dropRefs_cons, ih, dropRef_buf]
    by_cases h : c = b
    · subst h
      simp [Function.iterate_succ_apply]
    · have : b ≠ c := fun e => h e.symm
      simp [h, this]

/-! ### The decision at a release (R104) -/

theorem decideAtRelease_sameButLinks (s : State) : s.sameButLinks s.decideAtRelease := by
  unfold State.decideAtRelease
  split
  · rfl
  · split <;> rfl

theorem decideAtRelease_bufs (s : State) : s.decideAtRelease.pool.bufs = s.pool.bufs := by
  unfold State.decideAtRelease
  split
  · rfl
  · split <;> rfl

/-- A settled happening differs only in the hold state and the RESUMEs it hands over. -/
theorem settle_cases (s base : State) :
    s.settle base = s ∨
      (base.freeCount < s.freeCount ∧ s.pool.hold ≠ .normal ∧ Config.holdLeave ≤ s.freeCount ∧
        s.settle base = ({ s with pool := { s.pool with hold := .normal } }).sendToUp .resume) := by
  unfold State.settle
  split
  · next h =>
    unfold State.decideAtRelease
    split
    · exact .inl rfl
    · next hh =>
      split
      · next hf => exact .inr ⟨h, by rw [hh]; exact HoldState.noConfusion, hf, rfl⟩
      · exact .inl rfl
  · exact .inl rfl

theorem settle_sameButLinks (s base : State) : s.sameButLinks (s.settle base) := by
  rcases settle_cases s base with h | ⟨_, _, _, h⟩ <;> rw [h]
  · rfl
  · rfl

@[simp] theorem settle_buf (s base : State) (b : BufId) : (s.settle base).buf b = s.buf b := by
  rcases settle_cases s base with h | ⟨_, _, _, h⟩
  · rw [h]
  · rw [h]
    rfl

@[simp] theorem settle_freeCount (s base : State) : (s.settle base).freeCount = s.freeCount := by
  rcases settle_cases s base with h | ⟨_, _, _, h⟩
  · rw [h]
  · rw [h]
    rfl

@[simp] theorem settle_notices (s base : State) : (s.settle base).notices = s.notices := by
  rcases settle_cases s base with h | ⟨_, _, _, h⟩
  · rw [h]
  · rw [h]
    rfl

theorem settle_port (s base : State) (p : Port) :
    (s.settle base).port p = { s.port p with ctl := ((s.settle base).port p).ctl } := by
  rcases settle_cases s base with h | ⟨_, _, _, h⟩ <;> rw [h]
  rw [State.port_sendToUp]
  split <;> rfl

/-- The pool is HOLDING with 24 buffers free or more, so that a release leaves HOLDING (R104). -/
def resumes (s : State) : Bool := s.pool.hold != .normal && 24 ≤ s.freeCount

/-- The end of a happening that has released buffers (R104). -/
theorem settle_released {s base : State} (h : base.freeCount < s.freeCount) :
    s.settle base =
      if resumes s then ({ s with pool := { s.pool with hold := .normal } }).sendToUp .resume else s := by
  unfold State.settle
  rw [if_pos h]
  unfold State.decideAtRelease resumes
  split
  · next e => simp [e]
  · next e => simp [e, Config.holdLeave]

/-- The end of a happening that has released no buffer (R104). -/
theorem settle_same {s base : State} (h : ¬ base.freeCount < s.freeCount) : s.settle base = s := by
  unfold State.settle
  rw [if_neg h]

theorem settle_released_port {s base : State} (h : base.freeCount < s.freeCount) (p : Port) :
    (s.settle base).port p =
      { s.port p with ctl := (s.port p).ctl ++ if (s.port p).isUp && resumes s then [.resume] else [] } := by
  rw [settle_released h]
  split
  · next e =>
    rw [State.port_sendToUp]
    show (if (s.port p).isUp = true then { s.port p with ctl := (s.port p).ctl ++ [Ctl.resume] } else s.port p) = _
    split <;> simp [*]
  · next e => simp [e]

theorem settle_released_pool {s base : State} (h : base.freeCount < s.freeCount) :
    (s.settle base).pool = { s.pool with hold := if resumes s then .normal else s.pool.hold } := by
  rw [settle_released h]
  split <;> simp [*]

/-! ### A free buffer is empty (R100) -/

theorem dropBuffer_wf {x : Buffer} (h : (dropBuffer x).refs = 0) : dropBuffer x = freeBuffer := by
  unfold dropBuffer at *
  split
  · rfl
  · next hx =>
    simp only [hx, if_false] at h
    omega

theorem wf_setBuf {s : State} (h : s.pool.wf) (b : BufId) {x : Buffer} (hx : x.refs = 0 → x = freeBuffer) :
    (s.setBuf b x).pool.wf := by
  intro c hc
  have e : (s.setBuf b x).pool.bufs.get c = if c = b then x else s.buf c := State.buf_setBuf s b c x
  rw [e] at hc ⊢
  split at hc <;> split <;> first | exact hx hc | exact h c hc | contradiction

theorem wf_dropRef {s : State} (h : s.pool.wf) (b : BufId) : (s.dropRef b).pool.wf :=
  wf_setBuf h b dropBuffer_wf

theorem wf_dropRefs {s : State} (h : s.pool.wf) (bs : List BufId) : (s.dropRefs bs).pool.wf := by
  induction bs generalizing s with
  | nil => exact h
  | cons b bs ih => exact ih (wf_dropRef h b)

theorem wf_of_bufs {p q : Pool} (h : p.wf) (e : q.bufs = p.bufs) : q.wf := by
  unfold Pool.wf at *
  rw [e]
  exact h

theorem wf_takeBuffer {s : State} (h : s.pool.wf) (b : BufId) : (s.takeBuffer b).pool.wf :=
  wf_of_bufs (wf_setBuf (x := { refs := 1, bytes := [] }) h b (by simp)) rfl

theorem wf_alloc {s t : State} {n : Nat} {b : BufId} (h : s.pool.wf) (e : s.alloc n = some (b, t)) : t.pool.wf := by
  obtain ⟨_, _, rfl⟩ := alloc_some e
  exact wf_of_bufs (wf_takeBuffer h b) (decideAtAlloc_bufs _)

theorem wf_settle {s : State} (h : s.pool.wf) (base : State) : (s.settle base).pool.wf := by
  rcases settle_cases s base with e | ⟨_, _, _, e⟩ <;> rw [e]
  · exact h
  · exact wf_of_bufs h rfl

theorem wf_writeByte {s : State} (h : s.pool.wf) (b : BufId) (d : Byte) (hb : (s.buf b).refs ≠ 0) :
    (s.writeByte b d).pool.wf := wf_setBuf h b (fun e => absurd e hb)

theorem wf_writeFrame {s : State} (h : s.pool.wf) (b : BufId) (l : List Byte) (hb : (s.buf b).refs ≠ 0) :
    (s.writeFrame b l).pool.wf := wf_setBuf h b (fun e => absurd e hb)

theorem wf_reset : State.reset.pool.wf := by
  intro b _
  show (Vector.replicate 96 freeBuffer).get b = freeBuffer
  rw [get_replicate]

end Sys2Proof.Machine
end

