-- ==== Sys2Proof/Laws/Links.lean ====
section
/-! SUPPORT. What the operations of a Link Port and its Egress Scheduler do: the record each leaves at its port, and
that it leaves every other port as it was (06, 07). -/

namespace Sys2Proof.Machine

/-! ### The waiting frame (R192) -/

theorem noticeLeft_sameButLinks (s : State) (es : List QueueEntry) : s.sameButLinks (s.noticeLeft es) := by
  unfold State.noticeLeft
  split <;> rfl
@[simp] theorem noticeLeft_port (s : State) (es : List QueueEntry) (p : Port) : (s.noticeLeft es).port p = s.port p := by
  unfold State.noticeLeft
  split <;> rfl
@[simp] theorem noticeLeft_pool (s : State) (es : List QueueEntry) : (s.noticeLeft es).pool = s.pool := by
  unfold State.noticeLeft
  split <;> rfl
@[simp] theorem noticeLeft_buf (s : State) (es : List QueueEntry) (b : BufId) : (s.noticeLeft es).buf b = s.buf b := by
  unfold State.noticeLeft
  split <;> rfl
@[simp] theorem noticeLeft_freeCount (s : State) (es : List QueueEntry) : (s.noticeLeft es).freeCount = s.freeCount := by
  unfold State.noticeLeft
  split <;> rfl
theorem noticeLeft_notices (s : State) (es : List QueueEntry) :
    (s.noticeLeft es).notices =
      if es.any (fun e => e.origin == .notice) then { s.notices with waiting := none } else s.notices := by
  unfold State.noticeLeft
  split <;> rfl

/-! ### A reference given back where one is held -/

theorem dropRef?_sameButLinks (s : State) (b : Option BufId) : s.sameButLinks (s.dropRef? b) := by
  cases b <;> rfl
@[simp] theorem dropRef?_port (s : State) (b : Option BufId) (p : Port) : (s.dropRef? b).port p = s.port p := by
  cases b <;> rfl
@[simp] theorem dropRef?_notices (s : State) (b : Option BufId) : (s.dropRef? b).notices = s.notices := by
  cases b <;> rfl
@[simp] theorem dropRef?_hold (s : State) (b : Option BufId) : (s.dropRef? b).pool.hold = s.pool.hold := by
  cases b <;> rfl
@[simp] theorem dropRef?_localTime (s : State) (b : Option BufId) : (s.dropRef? b).localTime = s.localTime := by
  cases b <;> rfl
@[simp] theorem dropRef?_offset (s : State) (b : Option BufId) : (s.dropRef? b).offset = s.offset := by
  cases b <;> rfl
theorem dropRef?_eq (s : State) (b : Option BufId) : s.dropRef? b = s.dropRefs b.toList := by
  cases b <;> rfl
theorem wf_dropRef? {s : State} (h : s.pool.wf) (b : Option BufId) : (s.dropRef? b).pool.wf := by
  cases b
  · exact h
  · exact wf_dropRef h _

/-! ### Flush and abort (R114) -/

theorem flushPort_eq (s : State) (p : Port) :
    s.flushPort p = (((s.setPort p (flushed (s.port p))).dropRefs (flushedRefs (s.port p))).noticeLeft (s.port p).queue) := rfl

theorem flushPort_sameButLinks (s : State) (p : Port) : s.sameButLinks (s.flushPort p) := by
  rw [flushPort_eq]
  exact sameButLinks_trans (sameButLinks_trans (setPort_sameButLinks s p _) (dropRefs_sameButLinks _ _))
    (noticeLeft_sameButLinks _ _)

theorem flushPort_port (s : State) (p q : Port) : (s.flushPort p).port q = if q = p then flushed (s.port p) else s.port q := by
  rw [flushPort_eq]
  simp [State.port_setPort]

@[simp] theorem flushPort_port_same (s : State) (p : Port) : (s.flushPort p).port p = flushed (s.port p) := by
  simp [flushPort_port]

@[simp] theorem flushPort_hold (s : State) (p : Port) : (s.flushPort p).pool.hold = s.pool.hold := by
  rw [flushPort_eq]
  simp

theorem flushPort_freeCount_le (s : State) (p : Port) : s.freeCount ≤ (s.flushPort p).freeCount := by
  rw [flushPort_eq, noticeLeft_freeCount]
  exact dropRefs_freeCount_le (s.setPort p (flushed (s.port p))) _

theorem wf_flushPort {s : State} (h : s.pool.wf) (p : Port) : (s.flushPort p).pool.wf := by
  rw [flushPort_eq, noticeLeft_pool]
  exact wf_dropRefs (s := s.setPort p (flushed (s.port p))) h _

/-! ### The warned test and a rise of the score (R130 to R132) -/

theorem warnedTest_sameButLinks (s : State) (p : Port) : s.sameButLinks (s.warnedTest p) := by
  unfold State.warnedTest
  dsimp only
  split <;> rfl
@[simp] theorem warnedTest_pool (s : State) (p : Port) : (s.warnedTest p).pool = s.pool := by
  unfold State.warnedTest
  dsimp only
  split <;> rfl
theorem warnedTest_port (s : State) (p q : Port) :
    (s.warnedTest p).port q = if q = p then { s.port p with warned := warnedAfter (s.port p) } else s.port q := by
  unfold State.warnedTest
  dsimp only
  split <;> simp [State.port_setPort]
theorem warnedTest_notices (s : State) (p : Port) :
    (s.warnedTest p).notices =
      if !(s.port p).warned && warnedAfter (s.port p) then
        pushNotice s.notices .portWarn s.cellTime (portSubject p) (BitVec.ofNat 16 (s.port p).score)
      else s.notices := by
  unfold State.warnedTest
  dsimp only
  split <;> rfl

theorem scoreRise_sameButLinks (s : State) (p : Port) (w : Nat) : s.sameButLinks (s.scoreRise p w) := by
  unfold State.scoreRise
  exact sameButLinks_trans (setPort_sameButLinks s p _) (warnedTest_sameButLinks _ _)
@[simp] theorem scoreRise_pool (s : State) (p : Port) (w : Nat) : (s.scoreRise p w).pool = s.pool := by
  unfold State.scoreRise
  simp
theorem scoreRise_port (s : State) (p q : Port) (w : Nat) :
    (s.scoreRise p w).port q = if q = p then risen (s.port p) w (s.leakFromNow (s.port p)) else s.port q := by
  unfold State.scoreRise
  rw [warnedTest_port]
  split
  · simp [risen]
  · next h => simp [State.port_setPort, h]

/-! ### Entry to QUARANTINE (R133) -/

theorem enterQuarantine_sameButLinks (s : State) (p : Port) : s.sameButLinks (s.enterQuarantine p) := by
  unfold State.enterQuarantine
  dsimp only
  refine sameButLinks_trans ?_ (raiseAt_sameButLinks _ _ _ _ _)
  refine sameButLinks_trans ?_ (setPort_sameButLinks _ _ _)
  split
  · exact flushPort_sameButLinks s p
  · rfl
@[simp] theorem flushPort_localTime (s : State) (p : Port) : (s.flushPort p).localTime = s.localTime := by
  rw [flushPort_sameButLinks s p]
@[simp] theorem flushPort_offset (s : State) (p : Port) : (s.flushPort p).offset = s.offset := by
  rw [flushPort_sameButLinks s p]

theorem enterQuarantine_port (s : State) (p q : Port) :
    (s.enterQuarantine p).port q =
      if q = p then quarantined (s.port p) (s.after ((s.port p).cfg.quarantineHold * 100000)) else s.port q := by
  unfold State.enterQuarantine
  dsimp only
  rw [State.port_raise, State.port_setPort]
  by_cases h : q = p
  · subst h
    by_cases hu : (s.port q).isUp <;> simp [hu, quarantined, State.after, flushed]
  · simp only [h, if_false]
    split
    · rw [flushPort_port, if_neg h]
    · rfl

@[simp] theorem enterQuarantine_hold (s : State) (p : Port) : (s.enterQuarantine p).pool.hold = s.pool.hold := by
  unfold State.enterQuarantine
  dsimp only
  simp only [State.raise_pool, State.setPort_pool]
  split
  · simp
  · rfl

theorem wf_enterQuarantine {s : State} (h : s.pool.wf) (p : Port) : (s.enterQuarantine p).pool.wf := by
  unfold State.enterQuarantine
  dsimp only
  simp only [State.raise_pool, State.setPort_pool]
  split
  · exact wf_flushPort h p
  · exact h

/-- The quarantine test takes the port to QUARANTINE or changes nothing (R133). -/
theorem quarantineTest_cases (s : State) (p : Port) :
    (((s.port p).isUp = true ∨ (s.port p).isTraining = true) ∧ (s.port p).cfg.quarantineThreshold ≤ (s.port p).score
        ∧ s.quarantineTest p = s.enterQuarantine p)
      ∨ (((s.port p).isUp = true ∨ (s.port p).isTraining = true →
            (s.port p).score < (s.port p).cfg.quarantineThreshold)
        ∧ s.quarantineTest p = s) := by
  unfold State.quarantineTest
  dsimp only
  split
  · next h =>
    simp only [Bool.and_eq_true, Bool.or_eq_true, decide_eq_true_eq] at h
    exact .inl ⟨h.1, h.2, rfl⟩
  · next h =>
    simp only [Bool.and_eq_true, Bool.or_eq_true, decide_eq_true_eq, not_and, not_le] at h
    exact .inr ⟨h, rfl⟩

theorem quarantineTest_sameButLinks (s : State) (p : Port) : s.sameButLinks (s.quarantineTest p) := by
  rcases quarantineTest_cases s p with ⟨_, _, h⟩ | ⟨_, h⟩ <;> rw [h]
  · exact enterQuarantine_sameButLinks s p
  · rfl

theorem quarantineTest_port_ne (s : State) {p q : Port} (h : q ≠ p) : (s.quarantineTest p).port q = s.port q := by
  rcases quarantineTest_cases s p with ⟨_, _, e⟩ | ⟨_, e⟩ <;> rw [e]
  rw [enterQuarantine_port, if_neg h]

@[simp] theorem quarantineTest_hold (s : State) (p : Port) : (s.quarantineTest p).pool.hold = s.pool.hold := by
  rcases quarantineTest_cases s p with ⟨_, _, h⟩ | ⟨_, h⟩ <;> rw [h]
  simp

/-! ### The moves between states (R120 to R124) -/

theorem leaveUp_sameButLinks (s : State) (p : Port) (d : LinkState) : s.sameButLinks (s.leaveUp p d) := by
  unfold State.leaveUp
  dsimp only
  refine sameButLinks_trans ?_ (raiseAt_sameButLinks _ _ _ _ _)
  exact sameButLinks_trans (flushPort_sameButLinks s p) (setPort_sameButLinks _ _ _)

theorem leaveUp_port (s : State) (p q : Port) (d : LinkState) :
    (s.leaveUp p d).port q = if q = p then { flushed (s.port p) with link := d, ctl := [] } else s.port q := by
  unfold State.leaveUp
  dsimp only
  rw [State.port_raise, State.port_setPort]
  by_cases h : q = p
  · simp [h]
  · simp [h, flushPort_port]

@[simp] theorem leaveUp_hold (s : State) (p : Port) (d : LinkState) : (s.leaveUp p d).pool.hold = s.pool.hold := by
  unfold State.leaveUp
  simp

theorem leaveUp_notices (s : State) (p : Port) (d : LinkState) :
    (s.leaveUp p d).notices =
      pushNotice (s.flushPort p).notices .portDown s.cellTime (portSubject p) ((linkCode d).setWidth 16) := by
  show pushNotice (s.flushPort p).notices .portDown ((s.flushPort p).localTime + (s.flushPort p).offset) _ _ = _
  simp [State.cellTime]

theorem wf_leaveUp {s : State} (h : s.pool.wf) (p : Port) (d : LinkState) : (s.leaveUp p d).pool.wf := wf_flushPort h p

theorem dropReception_sameButLinks (s : State) (p : Port) : s.sameButLinks (s.dropReception p) :=
  sameButLinks_trans (setPort_sameButLinks s p _) (dropRef?_sameButLinks _ _)

theorem dropReception_port (s : State) (p q : Port) :
    (s.dropReception p).port q = if q = p then { s.port p with rx := .idle } else s.port q := by
  unfold State.dropReception
  simp [State.port_setPort]

@[simp] theorem dropReception_notices (s : State) (p : Port) : (s.dropReception p).notices = s.notices := by
  unfold State.dropReception
  simp

@[simp] theorem dropReception_hold (s : State) (p : Port) : (s.dropReception p).pool.hold = s.pool.hold := by
  unfold State.dropReception
  simp

theorem wf_dropReception {s : State} (h : s.pool.wf) (p : Port) : (s.dropReception p).pool.wf :=
  wf_dropRef? (s := s.setPort p { s.port p with rx := .idle }) h _

theorem enterTraining_sameButLinks (s : State) (p : Port) : s.sameButLinks (s.enterTraining p) := by
  unfold State.enterTraining
  dsimp only
  refine sameButLinks_trans ?_ (quarantineTest_sameButLinks _ _)
  exact sameButLinks_trans (dropReception_sameButLinks s p) (setPort_sameButLinks _ _ _)

/-- Entry to TRAINING: TRAINING with count 0, or QUARANTINE when the score kept is at or above the threshold (R121,
R133). -/
theorem enterTraining_port_same (s : State) (p : Port) :
    (s.enterTraining p).port p =
      if (s.port p).cfg.quarantineThreshold ≤ (s.port p).score then
        quarantined (training (s.port p)) (s.after ((s.port p).cfg.quarantineHold * 100000))
      else training (s.port p) := by
  have ht : (s.dropReception p).localTime = s.localTime := by rw [dropReception_sameButLinks s p]
  unfold State.enterTraining
  dsimp only
  generalize hu : (s.dropReception p).setPort p _ = u
  have hp : u.port p = training (s.port p) := by rw [← hu]; simp [training, dropReception_port]
  have hl : u.localTime = s.localTime := by rw [← hu]; exact ht
  rcases quarantineTest_cases u p with ⟨_, h, e⟩ | ⟨h, e⟩ <;> rw [e]
  · rw [hp] at h
    rw [if_pos (by simpa [training] using h), enterQuarantine_port, if_pos rfl, hp]
    simp [State.after, hl, training]
  · have : (u.port p).isTraining = true := by rw [hp]; rfl
    have := h (.inr this)
    rw [hp] at this ⊢
    rw [if_neg (by simpa [training] using this)]

theorem enterTraining_port_ne (s : State) {p q : Port} (h : q ≠ p) : (s.enterTraining p).port q = s.port q := by
  unfold State.enterTraining
  dsimp only
  rw [quarantineTest_port_ne _ h, State.port_setPort_ne _ _ h, dropReception_port, if_neg h]

@[simp] theorem enterTraining_hold (s : State) (p : Port) : (s.enterTraining p).pool.hold = s.pool.hold := by
  unfold State.enterTraining
  simp

theorem wf_enterTraining {s : State} (h : s.pool.wf) (p : Port) : (s.enterTraining p).pool.wf := by
  unfold State.enterTraining
  dsimp only
  have hw : ((s.dropReception p).setPort p { (s.dropReception p).port p with link := .training 0 }).pool.wf :=
    wf_dropReception h p
  rcases quarantineTest_cases ((s.dropReception p).setPort p { (s.dropReception p).port p with link := .training 0 }) p
    with ⟨_, _, e⟩ | ⟨_, e⟩ <;> rw [e]
  · exact wf_enterQuarantine hw p
  · exact hw

theorem enterUp_sameButLinks (s : State) (p : Port) : s.sameButLinks (s.enterUp p) := rfl

theorem enterUp_port_ne (s : State) {p q : Port} (h : q ≠ p) : (s.enterUp p).port q = s.port q := by
  unfold State.enterUp
  simp only [State.port_raise]
  exact State.port_setPort_ne _ _ h

theorem endQuarantine_sameButLinks (s : State) (p : Port) : s.sameButLinks (s.endQuarantine p) :=
  sameButLinks_trans (setPort_sameButLinks s p _) (enterTraining_sameButLinks _ _)

/-! ### A receive error (R127, R128) -/

theorem rxError_sameButLinks (s : State) (p : Port) (buf : Option BufId) (e : RxError) (rx : Reception) :
    s.sameButLinks (s.rxError p buf e rx) := by
  unfold State.rxError
  dsimp only
  generalize ht : (s.setPort p _).dropRef? buf = t
  have h : s.sameButLinks t := by
    rw [← ht]
    exact sameButLinks_trans (setPort_sameButLinks s p _) (dropRef?_sameButLinks _ buf)
  refine sameButLinks_trans (sameButLinks_trans h ?_) (settle_sameButLinks _ _)
  split
  · exact sameButLinks_trans (scoreRise_sameButLinks _ _ _) (quarantineTest_sameButLinks _ _)
  · rfl

/-! ### Selection and transmission (R110, R111) -/

theorem select_sameButLinks (s : State) (p : Port) : s.sameButLinks (s.select p) := by
  unfold State.select
  split
  · dsimp only
    refine sameButLinks_trans ?_ (noticeLeft_sameButLinks _ _)
    exact sameButLinks_trans (setPort_sameButLinks s p _) (dropRefs_sameButLinks _ _)
  · rfl

theorem endTransmission_sameButLinks (s : State) (p : Port) (t : Tx) : s.sameButLinks (s.endTransmission p t) := by
  unfold State.endTransmission
  dsimp only
  exact sameButLinks_trans (sameButLinks_trans (setPort_sameButLinks s p _) (dropRef_sameButLinks _ _))
    (select_sameButLinks _ _)

theorem enqueue_sameButLinks (s : State) (p : Port) (e : QueueEntry) : s.sameButLinks (s.enqueue p e) := rfl

/-- A selection takes entries from the front of the queue: the aged ones, then the one sent, if any. -/
theorem selectFrom_split (limit : Nat) (now : Instant) (q : List QueueEntry) :
    (selectFrom limit now q).1 ++ (selectFrom limit now q).2.1.toList ++ (selectFrom limit now q).2.2 = q := by
  induction q with
  | nil => rfl
  | cons e es ih =>
    unfold selectFrom
    split
    · simpa using ih
    · rfl

/-- Every entry a selection discards is over age; the one it sends is not (R110). -/
theorem selectFrom_ages (limit : Nat) (now : Instant) (q : List QueueEntry) :
    (∀ e ∈ (selectFrom limit now q).1, entryAged limit now e = true)
      ∧ (∀ e ∈ (selectFrom limit now q).2.1, entryAged limit now e = false)
      ∧ ((selectFrom limit now q).2.1 = none → (selectFrom limit now q).2.2 = []) := by
  induction q with
  | nil => simp [selectFrom]
  | cons e es ih =>
    unfold selectFrom
    split
    · next h => simpa [h] using ih
    · next h => simpa using h

/-- Insertion keeps a queue in priority order (R107, R108). -/
theorem insertEntry_sorted (e : QueueEntry) (q : List QueueEntry) (h : q.Pairwise (fun a b => b.prio ≤ a.prio)) :
    (insertEntry e q).Pairwise (fun a b => b.prio ≤ a.prio) := by
  induction q with
  | nil => simp [insertEntry]
  | cons x xs ih =>
    rw [List.pairwise_cons] at h
    unfold insertEntry
    split
    · next hx =>
      rw [List.pairwise_cons]
      refine ⟨?_, ih h.2⟩
      intro a ha
      have : a = e ∨ a ∈ xs := by
        clear ih h hx
        induction xs with
        | nil => simpa [insertEntry] using ha
        | cons y ys ih =>
          unfold insertEntry at ha
          split at ha
          · rcases List.mem_cons.1 ha with rfl | ha
            · simp
            · rcases ih ha with h | h <;> simp [h]
          · rcases List.mem_cons.1 ha with rfl | ha
            · simp
            · exact .inr ha
      rcases this with rfl | ha
      · exact hx
      · exact h.1 a ha
    · next hx =>
      have hlt : x.prio ≤ e.prio := by
        have := BitVec.not_le.1 hx
        exact BitVec.le_of_lt this
      rw [List.pairwise_cons]
      refine ⟨?_, List.pairwise_cons.2 h⟩
      intro a ha
      rcases List.mem_cons.1 ha with rfl | ha
      · exact hlt
      · exact BitVec.le_trans (h.1 a ha) hlt

@[simp] theorem insertEntry_length (e : QueueEntry) (q : List QueueEntry) : (insertEntry e q).length = q.length + 1 := by
  induction q with
  | nil => rfl
  | cons x xs ih =>
    unfold insertEntry
    split <;> simp [ih]

theorem insertEntry_perm (e : QueueEntry) (q : List QueueEntry) : (insertEntry e q).Perm (e :: q) := by
  induction q with
  | nil => exact .refl _
  | cons x xs ih =>
    unfold insertEntry
    split
    · exact (ih.cons x).trans (.swap e x xs)
    · exact .refl _

end Sys2Proof.Machine
end

