-- ==== Sys2Proof/Laws/Agent.lean ====
section
/-! SUPPORT. What the Management Agent's steps do: which taking is due, the requester table, and the sending of a reply
(08). -/

namespace Sys2Proof.Machine

/-! ### The taking that is due -/

/-- A request that is next to be taken is the one due, on its own row (R146 to R148). -/
theorem takingDue_of_ready {s : State} {r : Taken} (h : s.headReady r) : s.takingDue = some (s.takingRow r) := by
  obtain ⟨hr, hb, hh, _, _⟩ := h
  unfold State.takingDue
  simp [hr, hb, hh]

/-- A request that is carried out is taken on the row of its command (R147, R148). -/
theorem takingRow_of_carries {s : State} {r : Taken} (h : s.carries r) : s.takingRow r = commandRow r.code r.args := by
  obtain ⟨_, hp, hf⟩ := h
  unfold State.takingRow
  rw [if_neg (by omega)]
  rw [if_neg]
  cases e : s.requester r.key with
  | none => simp
  | some q => simpa [e] using hf

theorem taking_eq {s : State} {r : Taken} {row : Instr} {act : Taken → State → State} (h : s.headReady r)
    (hrow : s.takingRow r = row) : s.taking row act = act r s := by
  have hd := takingDue_of_ready h
  obtain ⟨_, _, hh, _, _⟩ := h
  unfold State.taking
  rw [hh, hd]
  simp [hrow]

/-- The request taken next is the head of the queue. -/
theorem headRequest_queue {s : State} {r : Taken} (h : s.headRequest = some r) :
    ∃ q qs, s.agent.queue = q :: qs ∧ r.buf = q.buf ∧ r.port = q.port ∧ r = takenOf q (s.buf q.buf).bytes := by
  unfold State.headRequest at h
  split at h
  · next q qs hq =>
    simp only [Option.some.injEq] at h
    subst h
    exact ⟨q, qs, hq, rfl, rfl, rfl⟩
  · cases h

/-! ### The requester table (R148, R151, R153) -/

theorem requester_key {s : State} {k : Key} {e : Requester} (h : s.requester k = some e) : e.key = k := by
  have := List.find?_some (p := fun e : Requester => e.key == k) h
  exact eq_of_beq this

/-- The table after the served requester's entry has been placed: the others, then its own (R148, R151). -/
theorem placeRequester_table (s : State) (k : Key) (n : Half) :
    ∃ e, e.key = k ∧ e.lastUsed = s.localTime ∧ (s.placeRequester k n).agent.table = s.otherRequesters k ++ [e] := by
  unfold State.placeRequester State.otherRequesters
  dsimp only
  split
  · next q hq =>
    have hk : q.key = k := requester_key hq
    exact ⟨{ q with lastUsed := s.localTime }, hk, rfl, by simp [hq]⟩
  · next hq =>
    refine ⟨{ key := k, seq := n, reply := [], lastUsed := s.localTime }, rfl, rfl, ?_⟩
    have e : ∀ (l : List Requester),
        evictOne s.protectedKey l = l.eraseP (fun e => holderOf s.ctrl != some e.key) := fun _ => rfl
    simp only [hq, Option.isSome_none, Bool.false_eq_true, if_false, e]

/-- None of the other requesters has the served requester's key. -/
theorem otherRequesters_key {s : State} {k : Key} {e : Requester} (h : e ∈ s.otherRequesters k) : e.key ≠ k := by
  unfold State.otherRequesters at h
  split at h
  · simpa using (List.mem_filter.1 h).2
  · next hq =>
    have hn : ∀ e ∈ s.agent.table, e.key ≠ k := by
      have : s.requester k = none := by simpa using hq
      intro e he
      simpa using List.find?_eq_none.1 this e he
    split at h
    · exact hn e h
    · exact hn e (List.mem_of_mem_eraseP h)

/-- A reply stored in a table that ends in the requester's entry (R153). -/
theorem storeReply_table {s : State} {k : Key} {n : Half} {l : List Byte} {others : List Requester} {e : Requester}
    (ht : s.agent.table = others ++ [e]) (ho : ∀ x ∈ others, x.key ≠ k) (he : e.key = k) :
    (s.storeReply k n l).agent =
      { s.agent with table := others ++ [{ key := k, seq := n, reply := l, lastUsed := e.lastUsed }] } := by
  unfold State.storeReply
  have hany : (others ++ [e]).any (fun x => x.key == k) = true := by simp [he]
  have hmap : others.map (fun x => if x.key = k then { x with seq := n, reply := l } else x) = others := by
    conv_rhs => rw [← List.map_id others]
    apply List.map_congr_left
    intro x hx
    simp [ho x hx]
  simp only [ht, hany, if_true, List.map_append, hmap, List.map_cons, List.map_nil, he]

/-! ### The reply (R154) -/

/-- What the Agent's allocation for a reply leaves, HOLDING entered or not (R99, R102). -/
theorem alloc_agent_facts {u t : State} {b : BufId} (h : u.alloc Config.agentNeed = some (b, t)) :
    (u.buf b).refs = 0 ∧ t.freeCount + 1 = u.freeCount
      ∧ t.pool.minFree = min u.pool.minFree (u.freeCount - 1)
      ∧ (∀ c, t.buf c = if c = b then { refs := 1, bytes := [] } else u.buf c)
      ∧ u.sameButLinks t
      ∧ (∀ p, t.port p = { u.port p with
          ctl := (u.port p).ctl ++ if (u.port p).isUp && u.replyHolds then [.hold] else [] })
      ∧ t.pool.hold = (if u.replyHolds then .holding (u.localTime + 500) else u.pool.hold)
      ∧ t.pool.holdEntries = (if u.replyHolds then u.pool.holdEntries + 1 else u.pool.holdEntries)
      ∧ t.notices = if u.replyHolds then
          pushNotice u.notices .poolLow u.cellTime 0 (BitVec.ofNat 16 (u.freeCount - 1)) else u.notices := by
  obtain ⟨hn, hb, rfl⟩ := alloc_some h
  have hf := takeBuffer_freeCount u b hb
  refine ⟨hb, by simpa using hf, by simpa using takeBuffer_minFree u b hb, ?_,
    sameButLinks_trans (takeBuffer_sameButLinks u b) (decideAtAlloc_sameButLinks _), ?_⟩
  · intro c
    rw [decideAtAlloc_buf, takeBuffer_buf]
  by_cases hold : u.pool.hold = .normal ∧ u.freeCount ≤ 12
  · have e : u.replyHolds = true := by
      simp only [State.replyHolds, hold.1, hold.2]
      simp only [Config.agentNeed] at hn
      simp [hn]
    have hfe : (u.takeBuffer b).freeCount = u.freeCount - 1 := by omega
    rw [decideAtAlloc_enter (s := u.takeBuffer b) (by simpa using hold.1) (by rw [hfe]; have := hold.2; simp; omega)]
    rw [hfe]
    refine ⟨?_, ?_, ?_, ?_⟩
    · intro p
      simp only [State.port_raise, State.port_sendToUp, e, Bool.and_true]
      show (if (u.port p).isUp = true then { u.port p with ctl := (u.port p).ctl ++ [Ctl.hold] } else u.port p) = _
      split <;> simp
    · simp [e, Config.holdRepeatSpacing]
      rfl
    · simp [e]
    · simp only [e, if_true]
      rfl
  · have e : u.replyHolds = false := by
      simp only [State.replyHolds]
      by_contra hc
      simp only [Bool.not_eq_false, Bool.and_eq_true, beq_iff_eq, decide_eq_true_eq] at hc
      exact hold ⟨hc.1.1, hc.2⟩
    have hs : (u.takeBuffer b).decideAtAlloc = u.takeBuffer b := by
      apply decideAtAlloc_stay
      by_cases hh : u.pool.hold = .normal
      · right
        have : ¬ u.freeCount ≤ 12 := fun hc => hold ⟨hh, hc⟩
        simp only [Config.holdEnter]
        omega
      · left
        simpa using hh
    rw [hs]
    simp [e]

/-- A reply for which a buffer was allocated is sent as R154 gives, accepted or refused. -/
theorem delivered_some {u t : State} {r : Taken} {b : BufId} {payload : List Byte} (hw : u.pool.wf)
    (hr : (u.buf r.buf).refs = 1) (ha : u.alloc Config.agentNeed = some (b, t)) :
    Delivered u (u.sendReply r payload) r payload
      ∧ (u.sendReply r payload).agent = { u.agent with
          counters := if u.sendsTo r.port then u.agent.counters
            else { u.agent.counters with replyDropped := u.agent.counters.replyDropped + 1 } } := by
  obtain ⟨hb, hf, hm, hbuf, hsame, hport, hh, he, hn⟩ := alloc_agent_facts ha
  have hbr : b ≠ r.buf := by
    intro e
    rw [e, hr] at hb
    cases hb
  have hbt : t.buf b = { refs := 1, bytes := [] } := by rw [hbuf, if_pos rfl]
  have hrt : t.buf r.buf = u.buf r.buf := by rw [hbuf, if_neg (Ne.symm hbr)]
  have hup : ∀ p, (t.port p).isUp = (u.port p).isUp := by intro p; rw [hport]; rfl
  have hq : ∀ p, (t.port p).queue = (u.port p).queue := by intro p; rw [hport]
  have hacc : (t.port r.port).canAccept = (u.port r.port).canAccept := by rw [hport]; rfl
  have hsend : u.sendsTo r.port = (u.port r.port).canAccept := by
    unfold State.sendsTo
    simp [show 1 ≤ u.freeCount by omega]
  have hag : t.agent = u.agent := by rw [hsame]
  have hlt : t.localTime = u.localTime := by rw [hsame]
  -- the state before the release's decision
  generalize hfr : replyFrame r payload = frame
  generalize hv : (if (t.port r.port).canAccept then
      (t.writeFrame b frame).enqueue r.port { buf := b, prio := r.prio, time := t.localTime, origin := .reply }
    else (t.writeFrame b frame).countReplyDropped.dropRef b).dropRef r.buf = v
  have hsr : u.sendReply r payload = v.settle t := by
    unfold State.sendReply
    rw [ha, ← hv, hfr]
    rfl
  have hwf : (t.writeFrame b frame).freeCount = t.freeCount := by
    have := freeCount_setBuf t b { t.buf b with bytes := frame }
    simp only [hbt] at this
    have e : t.writeFrame b frame = t.setBuf b { refs := 1, bytes := frame } := by
      unfold State.writeFrame
      rw [hbt]
    rw [e]
    simpa using this
  have hwb : ∀ c, (t.writeFrame b frame).buf c = if c = b then { refs := 1, bytes := frame } else t.buf c := by
    intro c
    unfold State.writeFrame
    rw [State.buf_setBuf, hbt]
  have hrest : v = { u with agent := v.agent, ports := v.ports, pool := v.pool, notices := v.notices } := by
    rw [← hv, hsame]
    split <;> rfl
  have hvn : v.notices = t.notices := by rw [← hv]; split <;> rfl
  have hvh : v.pool.hold = t.pool.hold := by rw [← hv]; split <;> rfl
  have hve : v.pool.holdEntries = t.pool.holdEntries := by rw [← hv]; split <;> rfl
  have hvm : v.pool.minFree = t.pool.minFree := by rw [← hv]; split <;> rfl
  have hva : v.agent = { u.agent with
      counters := if u.sendsTo r.port then u.agent.counters
        else { u.agent.counters with replyDropped := u.agent.counters.replyDropped + 1 } } := by
    rw [← hv, hsend, hacc]
    split
    · exact hag
    · show { t.agent with counters := { t.agent.counters with replyDropped := t.agent.counters.replyDropped + 1 } } = _
      rw [hag]
  have hvp : ∀ p, v.port p = { t.port p with queue := (v.port p).queue } := by
    intro p
    rw [← hv]
    split
    · simp only [dropRef_port, State.enqueue]
      rw [State.port_setPort]
      split
      · next e => subst e; rfl
      · rfl
    · rfl
  have hvq : ∀ p, p ≠ r.port → (v.port p).queue = (t.port p).queue := by
    intro p hp
    rw [← hv]
    split
    · show (((t.writeFrame b frame).enqueue _ _).port p).queue = _
      unfold State.enqueue
      rw [State.port_setPort_ne _ _ hp]
      rfl
    · rfl
  have hvown : v.buf r.buf = freeBuffer := by
    have hx : ∀ x : State, (x.buf r.buf).refs = 1 → (x.dropRef r.buf).buf r.buf = freeBuffer := by
      intro x hx
      simp [dropBuffer, hx]
    rw [← hv]
    apply hx
    split
    · show ((t.writeFrame b frame).buf r.buf).refs = 1
      rw [hwb, if_neg (Ne.symm hbr), hrt, hr]
    · rw [dropRef_buf, if_neg (Ne.symm hbr)]
      show ((t.writeFrame b frame).buf r.buf).refs = 1
      rw [hwb, if_neg (Ne.symm hbr), hrt, hr]
  have hvfree : v.freeCount = if u.sendsTo r.port then u.freeCount else u.freeCount + 1 := by
    rw [← hv, hsend, hacc]
    split
    · next e =>
      rw [dropRef_freeCount_last]
      · show (t.writeFrame b frame).freeCount + 1 = _
        omega
      · show ((t.writeFrame b frame).buf r.buf).refs = 1
        rw [hwb, if_neg (Ne.symm hbr), hrt, hr]
    · next e =>
      rw [dropRef_freeCount_last, dropRef_freeCount_last]
      · show (t.writeFrame b frame).freeCount + 1 + 1 = _
        omega
      · show ((t.writeFrame b frame).buf b).refs = 1
        rw [hwb, if_pos rfl]
      · rw [dropRef_buf, if_neg (Ne.symm hbr)]
        show ((t.writeFrame b frame).buf r.buf).refs = 1
        rw [hwb, if_neg (Ne.symm hbr), hrt, hr]
  have hrel : t.freeCount < v.freeCount := by
    rw [hvfree]
    split <;> omega
  have hres : resumes v = (!u.replyHolds && u.replyResumes (v.settle t)) := by
    unfold resumes State.replyResumes
    rw [settle_freeCount, hvh, hh]
    cases ho : u.replyHolds with
    | false => simp
    | true =>
      have : u.freeCount ≤ 12 := by
        simp only [State.replyHolds, Bool.and_eq_true, decide_eq_true_eq] at ho
        exact ho.2
      have : ¬ 24 ≤ v.freeCount := by
        rw [hvfree]
        split <;> omega
      simp [this]
  have hsp := fun p => settle_released_port hrel p
  have hpool := settle_released_pool hrel
  have hvup : ∀ p, (v.port p).isUp = (u.port p).isUp := by intro p; rw [hvp]; exact hup p
  have hctl : ∀ p, ((v.settle t).port p).ctl
      = (u.port p).ctl ++ if (u.port p).isUp then u.replyControls (v.settle t) else [] := by
    intro p
    rw [hsp, hvup, hres]
    simp only
    rw [hvp, hport]
    unfold State.replyControls
    cases u.replyHolds <;> cases (u.port p).isUp <;> simp
  refine ⟨?_, ?_⟩
  · rw [hsr]
    refine
      { rest := ?_, own := ?_, accepted := ?_, refused := ?_, ports := ?_, queues := ?_, free := ?_, minFree := ?_
        hold := ?_, holdEntries := ?_, notices := ?_ }
    · have := settle_sameButLinks v t
      rw [this, hrest]
    · rw [settle_buf, hvown]
    · intro hs
      have hca : (t.port r.port).canAccept = true := by rw [hacc, ← hsend, hs]
      refine ⟨b, hb, ?_, ?_, ?_⟩
      · rw [settle_buf, ← hv, if_pos hca, dropRef_buf, if_neg hbr]
        show (t.writeFrame b frame).buf b = _
        rw [hwb, if_pos rfl, hfr]
      · intro c hc hcr
        rw [settle_buf, ← hv, if_pos hca, dropRef_buf, if_neg hcr]
        show (t.writeFrame b frame).buf c = _
        rw [hwb, if_neg hc, hbuf, if_neg hc]
      · rw [hsp]
        simp only
        rw [← hv, if_pos hca]
        show (((t.writeFrame b frame).enqueue r.port _).port r.port).queue = _
        unfold State.enqueue
        rw [State.port_setPort_same]
        show insertEntry _ (t.port r.port).queue = _
        rw [hq, hlt]
    · intro hs
      have hca : ¬ (t.port r.port).canAccept = true := by rw [hacc, ← hsend, hs]; simp
      refine ⟨?_, ?_⟩
      · intro c hc
        rw [settle_buf, ← hv, if_neg hca, dropRef_buf, if_neg hc, dropRef_buf]
        show (if c = b then dropBuffer ((t.writeFrame b frame).buf b) else (t.writeFrame b frame).buf c) = _
        rw [hwb, hwb]
        by_cases hcb : c = b
        · subst hcb
          simp only [if_true]
          exact (hw c hb).symm
        · simp only [hcb, if_false]
          rw [hbuf, if_neg hcb]
      · rw [hsp]
        simp only
        rw [← hv, if_neg hca]
        exact hq r.port
    · intro p
      rw [← hctl p, settle_port, hvp, hport]
    · intro p hp
      rw [hsp]
      simp only
      rw [hvq p hp, hq]
    · rw [settle_freeCount, hvfree]
    · rw [hpool]
      simp only
      rw [hvm, hm, if_pos (by omega)]
    · rw [hpool]
      simp only
      rw [hres, hvh, hh]
      cases u.replyHolds <;> simp
    · rw [hpool]
      simp only
      rw [hve, he]
    · rw [settle_notices, hvn, hn]
  · rw [hsr, settle_sameButLinks v t, hva]

/-- A reply for which no buffer was free is dropped (R154). -/
theorem delivered_none {u : State} {r : Taken} {payload : List Byte}
    (hr : (u.buf r.buf).refs = 1) (hf : u.freeCount = 0) :
    Delivered u (u.sendReply r payload) r payload
      ∧ (u.sendReply r payload).agent = { u.agent with
          counters := if u.sendsTo r.port then u.agent.counters
            else { u.agent.counters with replyDropped := u.agent.counters.replyDropped + 1 } } := by
  have ha : u.alloc Config.agentNeed = none := (alloc_none (Nat.le_refl 1)).2 (by omega)
  have hsend : u.sendsTo r.port = false := by simp [State.sendsTo, hf]
  have hholds : u.replyHolds = false := by simp [State.replyHolds, hf]
  have hsr : u.sendReply r payload = (u.countReplyDropped.dropRef r.buf).settle u := by
    unfold State.sendReply
    rw [ha]
  generalize hv : u.countReplyDropped.dropRef r.buf = v at hsr
  have hvfree : v.freeCount = 1 := by
    have h1 : (u.countReplyDropped.dropRef r.buf).freeCount = u.countReplyDropped.freeCount + 1 :=
      dropRef_freeCount_last (s := u.countReplyDropped) (h := hr)
    have h2 : u.countReplyDropped.freeCount = u.freeCount := rfl
    rw [← hv, h1, h2, hf]
  have hrel : u.freeCount < v.freeCount := by omega
  have hvp : ∀ p, v.port p = u.port p := by intro p; rw [← hv]; rfl
  have hres : resumes v = false := by simp [resumes, hvfree]
  have hst : v.settle u = v := by rw [settle_released hrel, hres]; rfl
  rw [hsr, hst]
  have hrr : u.replyResumes v = false := by simp [State.replyResumes, hvfree]
  refine ⟨?_, ?_⟩
  · refine
      { rest := ?_, own := ?_, accepted := ?_, refused := ?_, ports := ?_, queues := ?_, free := ?_, minFree := ?_
        hold := ?_, holdEntries := ?_, notices := ?_ }
    · rw [← hv]; rfl
    · rw [← hv]
      have : (u.countReplyDropped.buf r.buf).refs = 1 := hr
      simp [dropBuffer, this]
    · simp [hsend]
    · intro _
      refine ⟨?_, by rw [hvp]⟩
      intro c hc
      rw [← hv, dropRef_buf, if_neg hc]
      rfl
    · intro p
      simp [hvp, State.replyControls, hholds, hrr]
    · intro p _
      rw [hvp]
    · simp [hvfree, hsend, hf]
    · rw [← hv, hf]
      rfl
    · rw [hholds, hrr, ← hv]
      rfl
    · rw [hholds, ← hv]
      rfl
    · rw [hholds, ← hv]
      rfl
  · rw [← hv, hsend]
    rfl

/-- The reply is sent as R154 gives; a reply dropped is counted. -/
theorem sendReply_delivers {u : State} {r : Taken} (payload : List Byte) (hw : u.pool.wf) (hr : (u.buf r.buf).refs = 1) :
    Delivered u (u.sendReply r payload) r payload
      ∧ (u.sendReply r payload).agent = { u.agent with
          counters := if u.sendsTo r.port then u.agent.counters
            else { u.agent.counters with replyDropped := u.agent.counters.replyDropped + 1 } } := by
  by_cases h : 1 ≤ u.freeCount
  · obtain ⟨b, t, ha⟩ := alloc_exists (Nat.le_refl 1) h
    exact delivered_some hw hr ha
  · exact delivered_none hr (by omega)

/-- The sending of a reply reads nothing of the Agent, so it may be told from any state that differs in it alone. -/
theorem Delivered.of_agent {u t : State} {a : Agent} {r : Taken} {payload : List Byte}
    (h : Delivered { u with agent := a } t r payload) : Delivered u t r payload :=
  { rest := by rw [h.rest], own := h.own, accepted := h.accepted, refused := h.refused, ports := h.ports
    queues := h.queues, free := h.free, minFree := h.minFree, hold := h.hold, holdEntries := h.holdEntries
    notices := h.notices }

/-! ### A command carried out (R146 to R154) -/

/-- The state in which a command is carried out: the taking begun and the requester placed (R146 to R148). -/
def State.served (s : State) (r : Taken) : State := s.beginTaking.placeRequester r.key r.seq

theorem served_eq (s : State) (r : Taken) :
    s.served r = { s with
      agent := { (s.served r).agent with
        queue := s.agent.queue.tail, busyUntil := some (s.localTime + 10)
        counters := oneMoreTaken s.agent.counters } } := rfl

theorem served_table (s : State) (r : Taken) :
    ∃ e, e.key = r.key ∧ e.lastUsed = s.localTime ∧ (s.served r).agent.table = s.otherRequesters r.key ++ [e] :=
  placeRequester_table s.beginTaking r.key r.seq

/-- The requesters of a table are `others` and, after them, the served one, entered or used in this taking; or the
command has emptied the table (R148, R151, R161). -/
def servedTable (k : Key) (now : Instant) (others table : List Requester) : Prop :=
  (∀ x ∈ others, x.key ≠ k) ∧ ((∃ e, e.key = k ∧ e.lastUsed = now ∧ table = others ++ [e]) ∨ (table = [] ∧ others = []))

/-- A command that leaves the state `u`, the Agent's fields as named, ends in a reply of its status and results
(R146 to R154). -/
theorem carryOut_answered {s u : State} {r : Taken} {cmd : Taken → State → Answer} {st : Status} {results : List Byte}
    {c : AgentCounters} {others table : List Requester} {queue : List Request}
    (hc : cmd r (s.served r) = { state := { u with agent :=
        { queue := queue, busyUntil := some (u.localTime + 10), table := table, counters := c } }
                                 status := st, results := results })
    (ht : servedTable r.key u.localTime others table) (hw : u.pool.wf) (hr : (u.buf r.buf).refs = 1) :
    (s.carryOut cmd r).agent = u.answered r c others queue (replyPayload r st results)
      ∧ Delivered u (s.carryOut cmd r) r (replyPayload r st results) := by
  generalize hv : ({ u with agent :=
        { queue := queue, busyUntil := some (u.localTime + 10), table := table, counters := c } } : State) = v at hc
  have hs : s.carryOut cmd r
      = (v.storeReply r.key r.seq (replyPayload r st results)).sendReply r (replyPayload r st results) := by
    show (((cmd r (s.served r)).state).storeReply r.key r.seq
      (replyPayload r (cmd r (s.served r)).status (cmd r (s.served r)).results)).sendReply r
        (replyPayload r (cmd r (s.served r)).status (cmd r (s.served r)).results) = _
    rw [hc]
  have hst : (v.storeReply r.key r.seq (replyPayload r st results)).agent
      = { queue := queue, busyUntil := some (u.localTime + 10), counters := c
          table := others ++ [{ key := r.key, seq := r.seq, reply := replyPayload r st results
                                lastUsed := u.localTime }] } := by
    obtain ⟨ho, ⟨e, hk, hu, ht⟩ | ⟨ht, he⟩⟩ := ht
    · rw [storeReply_table (others := others) (e := e) (by rw [← hv]; exact ht) ho hk, hu, ← hv]
    · rw [← hv, ht, he]
      rfl
  have hvv : v.storeReply r.key r.seq (replyPayload r st results)
      = { u with agent := (v.storeReply r.key r.seq (replyPayload r st results)).agent } := by
    rw [← hv]
    rfl
  rw [hs, hvv, hst]
  obtain ⟨hd, ha⟩ := sendReply_delivers (u := { u with agent :=
      { queue := queue, busyUntil := some (u.localTime + 10), counters := c
        table := others ++ [{ key := r.key, seq := r.seq, reply := replyPayload r st results
                              lastUsed := u.localTime }] } }) (r := r) (replyPayload r st results) hw hr
  refine ⟨?_, hd.of_agent⟩
  rw [ha]
  rfl

/-- A command whose effect, the Agent apart, is to make `s` into `u`, and which touches nothing of the Agent, ends in a
reply of its status and results (R146 to R154). -/
theorem carryOut_replied {s u : State} {r : Taken} {cmd : Taken → State → Answer} {st : Status} {results : List Byte}
    (hc : cmd r (s.served r) = { state := { u with agent := (s.served r).agent }, status := st, results := results })
    (hw : u.pool.wf) (hr : (u.buf r.buf).refs = 1) (hlt : u.localTime = s.localTime) :
    Replied s u (s.carryOut cmd r) r st results := by
  obtain ⟨e, hk, hu, ht⟩ := served_table s r
  refine carryOut_answered (table := (s.served r).agent.table) (by rw [hc, hlt]; rfl)
    ⟨fun x hx => otherRequesters_key hx, .inl ⟨e, hk, by rw [hu, hlt], ht⟩⟩ hw hr

/-- The taking of a command that is carried out, on its own row (R146 to R149). -/
theorem taking_carries {s : State} {r : Taken} {row : Instr} {cmd : Taken → State → Answer} {code : Byte} {n : Nat}
    (h : s.carriesCommand r code n) (hrow : commandRow code r.args = row) :
    s.taking row (State.carryOut (checkLength n cmd)) = s.carryOut (checkLength n cmd) r := by
  obtain ⟨hc, rfl, _⟩ := h
  exact taking_eq hc.1 (by rw [takingRow_of_carries hc, hrow])

theorem checkLength_ok {n : Nat} {cmd : Taken → State → Answer} {r : Taken} {s : State} (h : r.args.length = n) :
    checkLength n cmd r s = cmd r s := if_pos h

end Sys2Proof.Machine
end

