-- ==== Sys2Proof/Laws/Banks.lean ====
section
/-! SUPPORT. The Bank Controller's operations, each with one lemma that says what it leaves: the two banks, the lease and
its time left, the swap and the entry to MIRRORING. -/

namespace Sys2Proof.Machine

theorem shadow_ne_active (a : Fin 2) : a ≠ a + 1 := by revert a; decide

@[simp] theorem State.activeBank_setShadow (s : State) (b : Bank) : (s.setShadow b).activeBank = s.activeBank :=
  get_set_ne s.banks b (shadow_ne_active s.active)

@[simp] theorem State.shadowBank_setShadow (s : State) (b : Bank) : (s.setShadow b).shadowBank = b :=
  get_set_same s.banks s.shadow b

theorem activeByte (a : Fin 2) : byteOf a.val = if a = 0 then 0 else 1 := by revert a; decide

theorem shadowByte (a : Fin 2) : byteOf (a + 1).val = if a = 0 then 1 else 0 := by revert a; decide

/-- A timer set `n` µs ahead, below 2^31, has not passed, and lies `n` ahead. -/
theorem after_facts (t : Instant) {n : Nat} (h1 : 1 ≤ n) (h2 : n ≤ 2 ^ 31) :
    atOrBefore (t + BitVec.ofNat 32 n) t = false ∧ (t + BitVec.ofNat 32 n - t).toNat = n := by
  have e : t + BitVec.ofNat 32 n - t = BitVec.ofNat 32 n := by rw [BitVec.add_comm, BitVec.add_sub_cancel]
  have e2 : t - (t + BitVec.ofNat 32 n) = -BitVec.ofNat 32 n := by
    rw [BitVec.sub_eq_add_neg, BitVec.neg_add, BitVec.sub_eq_add_neg, ← BitVec.add_assoc, BitVec.add_neg_eq_sub]
    simp
  constructor
  · unfold atOrBefore
    rw [e2, decide_eq_false_iff_not, BitVec.toNat_neg, BitVec.toNat_ofNat, Nat.mod_eq_of_lt (by omega : n < 2 ^ 32)]
    rw [Nat.mod_eq_of_lt (by omega)]
    omega
  · rw [e, BitVec.toNat_ofNat, Nat.mod_eq_of_lt (by omega)]

theorem State.msLeft_after (s : State) {n : Nat} (h1 : 1 ≤ n) (h2 : n ≤ 2 ^ 31) :
    s.msLeft (s.localTime + BitVec.ofNat 32 n) = (n + 999) / 1000 := by
  obtain ⟨a, b⟩ := after_facts s.localTime h1 h2
  unfold State.msLeft State.passed
  rw [a, b]
  rfl

/-- The results of an edit-session command that has just begun or renewed a lease (R167). -/
theorem State.leaseResults_leased (s : State) (k : Key) {d : Nat} (h1 : 1 ≤ d) (h2 : d ≤ 600) :
    ({ s with ctrl := .editing k d (s.localTime + BitVec.ofNat 32 (d * 1000000)) } : State).leaseResults
      = leasedResults s.active d := by
  unfold State.leaseResults leasedResults
  dsimp only
  have h := s.msLeft_after (n := d * 1000000) (by omega) (by omega)
  rw [show ({ s with ctrl := .editing k d (s.localTime + BitVec.ofNat 32 (d * 1000000)) } : State).msLeft
    (s.localTime + BitVec.ofNat 32 (d * 1000000)) = (d * 1000000 + 999) / 1000 from h, activeByte]
  rw [show (d * 1000000 + 999) / 1000 = d * 1000 by omega]
  rfl

theorem State.renew_eq {s : State} {k : Key} {d : Nat} {e : Instant} (hc : s.ctrl = .editing k d e) :
    s.renew k = { s with ctrl := .editing k d (s.localTime + BitVec.ofNat 32 (d * 1000000)) } := by
  unfold State.renew
  rw [hc]
  simp only [if_true]
  rfl

theorem State.startMirror_eq {s : State} {k : Key} (hc : holderOf s.ctrl = some k) :
    s.startMirror = { s.unprotect k with ctrl := .mirroring 0 s.localTime } := by
  unfold State.startMirror
  rw [hc]
  rfl

/-- A swap at the commit of its holder (R33), whose requester entry's protection ends (R152). -/
theorem State.swap_eq {s : State} {k : Key} (hc : holderOf s.ctrl = some k) :
    s.swap = { s.swappedFor k with agent := (s.unprotect k).agent } := by
  unfold State.swap
  rw [hc]
  dsimp only
  unfold State.swappedFor
  rw [← shadowByte]
  exact State.startMirror_eq (s := State.raise { s with active := s.shadow, hits := Vector.replicate 64 0 } _ _ _) hc

/-- Reached: the activation instant is the present cell time or 2^31 µs or more ahead of it (R32, R35, log 21). -/
theorem activationReached_iff (t c : Instant) :
    activationReached t c = true ↔ (t - c).toNat = 0 ∨ 2 ^ 31 ≤ (t - c).toNat := by
  unfold activationReached
  rw [Bool.or_eq_true, beq_iff_eq, decide_eq_true_eq]
  refine or_congr ⟨fun h => by rw [h, BitVec.sub_self]; rfl, fun h => ?_⟩ Iff.rfl
  have e : t - c = 0#32 := BitVec.eq_of_toNat_eq h
  rw [← BitVec.sub_add_cancel t c, e, BitVec.zero_add]

end Sys2Proof.Machine
end

