-- ==== Sys2Proof/Laws/Bits.lean ====
section
/-! SUPPORT. Fields of several bytes and their bytes give each other back, and the bits of an appended field. -/

namespace Sys2Proof.Machine

/-- A number below a power of two has no bit from there on. -/
theorem getLsbD_of_toNat_lt {w : Nat} (x : BitVec w) {k : Nat} (h : x.toNat < 2 ^ k) {i : Nat} (hi : k ≤ i) :
    x.getLsbD i = false := by
  rw [BitVec.getLsbD, Nat.testBit_lt_two_pow]
  exact Nat.lt_of_lt_of_le h (Nat.pow_le_pow_right (by omega) hi)

/-- A field within the high part of an appended field. -/
theorem extract_append_above {m n : Nat} (a : BitVec m) (b : BitVec n) (k w : Nat) :
    (a ++ b).extractLsb' (n + k) w = a.extractLsb' k w := by
  apply BitVec.eq_of_getLsbD_eq
  intro i hi
  rw [BitVec.getLsbD_extractLsb', BitVec.getLsbD_append, BitVec.getLsbD_extractLsb', if_neg (by omega)]
  rw [show n + k + i - n = k + i by omega]

/-- A field within the low part of an appended field. -/
theorem extract_append_low {m n : Nat} (a : BitVec m) (b : BitVec n) {k w : Nat} (h : k + w ≤ n) :
    (a ++ b).extractLsb' k w = b.extractLsb' k w := by
  apply BitVec.eq_of_getLsbD_eq
  intro i hi
  rw [BitVec.getLsbD_extractLsb', BitVec.getLsbD_append, BitVec.getLsbD_extractLsb', if_pos (by omega)]

@[simp] theorem extract_all {n : Nat} (a : BitVec n) : a.extractLsb' 0 n = a := by
  apply BitVec.eq_of_getLsbD_eq
  intro i hi
  rw [BitVec.getLsbD_extractLsb']; simp [hi]

/-- Two adjoining fields appended are one field. -/
theorem append_extract {n : Nat} (a : BitVec n) (k w v : Nat) :
    a.extractLsb' (k + w) v ++ a.extractLsb' k w = a.extractLsb' k (v + w) := by
  apply BitVec.eq_of_getLsbD_eq
  intro i hi
  rw [BitVec.getLsbD_append, BitVec.getLsbD_extractLsb', BitVec.getLsbD_extractLsb', BitVec.getLsbD_extractLsb']
  by_cases h : i < w
  · simp [h, hi]
  · rw [if_neg h, show k + w + (i - w) = k + i by omega]
    simp [hi, show i - w < v by omega]

theorem be16_append (a b : Byte) : be16 (a ++ b) = [a, b] := by
  show [(a ++ b).extractLsb' (8 + 0) 8, _] = _
  rw [extract_append_above, extract_append_low _ _ (by omega), extract_all, extract_all]

theorem be24_append (a b c : Byte) : be24 (a ++ b ++ c) = [a, b, c] := by
  show [(a ++ b ++ c).extractLsb' (8 + (8 + 0)) 8, (a ++ b ++ c).extractLsb' (8 + 0) 8, _] = _
  rw [extract_append_above, extract_append_above, extract_append_above, extract_append_low _ _ (by omega),
    extract_append_low _ _ (by omega), extract_all, extract_all, extract_all]

theorem be32_append (a b c d : Byte) : be32 (a ++ b ++ c ++ d) = [a, b, c, d] := by
  show [(a ++ b ++ c ++ d).extractLsb' (8 + (8 + (8 + 0))) 8, (a ++ b ++ c ++ d).extractLsb' (8 + (8 + 0)) 8,
    (a ++ b ++ c ++ d).extractLsb' (8 + 0) 8, _] = _
  rw [extract_append_above, extract_append_above, extract_append_above, extract_append_above, extract_append_above,
    extract_append_above, extract_append_low _ _ (by omega), extract_append_low _ _ (by omega),
    extract_append_low _ _ (by omega), extract_all, extract_all, extract_all, extract_all]

theorem halfAt_be16 (v : Half) : v.extractLsb' 8 8 ++ v.extractLsb' 0 8 = v := by
  rw [append_extract v 0 8 8, extract_all]

theorem tagAt_be24 (v : Tag) : v.extractLsb' 16 8 ++ v.extractLsb' 8 8 ++ v.extractLsb' 0 8 = v := by
  rw [append_extract v 8 8 8, append_extract v 0 8 16, extract_all]

theorem wordAt_be32 (v : BitVec 32) :
    v.extractLsb' 24 8 ++ v.extractLsb' 16 8 ++ v.extractLsb' 8 8 ++ v.extractLsb' 0 8 = v := by
  rw [append_extract v 16 8 8, append_extract v 8 8 16, append_extract v 0 8 24, extract_all]

end Sys2Proof.Machine
end

