-- ==== Sys2Proof/Laws/Happenings.lean ====
section
/-! SUPPORT. What a happening that releases or allocates buffers leaves, in the relations that statements speak of
(`Released`, `Allocated`). -/

namespace Sys2Proof.Machine

/-! ### References given back -/

theorem less_zero (x : Buffer) : x.less 0 = x := rfl

theorem less_succ (x : Buffer) (n : Nat) : (dropBuffer x).less n = x.less (n + 1) := by
  rcases x with ⟨r, l⟩
  by_cases h : r ≤ 1
  · have hd : dropBuffer { refs := r, bytes := l } = freeBuffer := by simp [dropBuffer, h]
    rw [hd]
    simp only [Buffer.less, freeBuffer]
    split <;> simp <;> omega
  · have hd : dropBuffer { refs := r, bytes := l } = { refs := r - 1, bytes := l } := by simp [dropBuffer, h]
    rw [hd]
    simp only [Buffer.less]
    by_cases hn : n = 0
    · subst hn
      have : ¬ r ≤ 0 + 1 := h
      simp [this]
    · simp only [hn, if_false, Nat.add_eq_zero_iff, one_ne_zero, and_false]
      by_cases hr : r - 1 ≤ n
      · rw [if_pos hr, if_pos (by omega)]
      · rw [if_neg hr, if_neg (by omega)]
        congr 1
        omega

/-- Giving back a reference `n` times over. -/
theorem dropBuffer_iterate (x : Buffer) (n : Nat) : dropBuffer^[n] x = x.less n := by
  induction n generalizing x with
  | zero => rfl
  | succ n ih => rw [Function.iterate_succ_apply, ih, less_succ]

/-- A happening that ends with the pool's decision, its references given back. -/
theorem released_settle {s v : State} {p : Port} {x : PortRec} {bs : List BufId} {u : NoticeUnit}
    (hv : s.sameButLinks v) (hp : v.port p = x) (hq : ∀ q, q ≠ p → v.port q = s.port q)
    (hb : ∀ b, v.buf b = (s.buf b).less (bs.count b)) (hpool : v.pool = { s.pool with bufs := v.pool.bufs })
    (hn : v.notices = u) : Released s (v.settle s) p x bs u := by
  have hh : v.pool.hold = s.pool.hold := by rw [hpool]
  have hres : s.resumed (v.settle s) = (decide (s.freeCount < v.freeCount) && resumes v) := by
    unfold State.resumed resumes
    rw [settle_freeCount, hh]
    cases s.pool.hold != .normal <;> simp
  have hrest : v.settle s = { s with ports := (v.settle s).ports, pool := (v.settle s).pool, notices := u } := by
    have h := sameButLinks_trans hv (settle_sameButLinks v s)
    have hn' : (v.settle s).notices = u := by rw [settle_notices, hn]
    rw [← hn']
    exact h
  by_cases h : s.freeCount < v.freeCount
  · have hres' : s.resumed (v.settle s) = resumes v := by rw [hres]; simp [h]
    refine ⟨hrest, fun b => by rw [settle_buf, hb], ?_, ?_, fun q hne => ?_⟩
    · rw [hres', settle_released_pool h, hh, hpool]
    · rw [hres', settle_released_port h, hp]
    · rw [hres', settle_released_port h, hq q hne]
  · have hs : v.settle s = v := settle_same h
    have hres' : s.resumed (v.settle s) = false := by rw [hres]; simp [h]
    refine ⟨hrest, fun b => by rw [settle_buf, hb], ?_, ?_, fun q hne => ?_⟩
    · rw [hres', hs, hpool]
      simp
    · rw [hres', hs, hp]
      simp
    · rw [hres', hs, hq q hne]
      simp

theorem dropRefs_buf_less (s : State) (bs : List BufId) (c : BufId) :
    (s.dropRefs bs).buf c = (s.buf c).less (bs.count c) := by
  rw [dropRefs_buf, dropBuffer_iterate]

theorem noticeLeft_eq (s : State) (es : List QueueEntry) :
    s.noticeLeft es = { s with notices := noticesAfter s.notices es } := by
  unfold State.noticeLeft noticesAfter
  split <;> rfl

theorem less_less (x : Buffer) (m n : Nat) : (x.less m).less n = x.less (m + n) := by
  rw [← dropBuffer_iterate, ← dropBuffer_iterate, ← dropBuffer_iterate, ← Function.iterate_add_apply, Nat.add_comm]

theorem dropRefs_pool (s : State) (bs : List BufId) :
    (s.dropRefs bs).pool = { s.pool with bufs := (s.dropRefs bs).pool.bufs } := by
  rw [dropRefs_only]

theorem dropRef?_buf (s : State) (o : Option BufId) (c : BufId) :
    (s.dropRef? o).buf c = (s.buf c).less (o.toList.count c) := by
  rw [dropRef?_eq, dropRefs_buf_less]

theorem dropRef?_pool (s : State) (o : Option BufId) :
    (s.dropRef? o).pool = { s.pool with bufs := (s.dropRef? o).pool.bufs } := by
  rw [dropRef?_eq]
  exact dropRefs_pool s _

theorem flushPort_buf (s : State) (p : Port) (c : BufId) :
    (s.flushPort p).buf c = (s.buf c).less ((flushedRefs (s.port p)).count c) := by
  rw [flushPort_eq, noticeLeft_buf, dropRefs_buf_less]
  rfl

theorem flushPort_pool (s : State) (p : Port) : (s.flushPort p).pool = { s.pool with bufs := (s.flushPort p).pool.bufs } := by
  rw [flushPort_eq, noticeLeft_pool, dropRefs_pool]
  rfl

theorem flushPort_notices (s : State) (p : Port) : (s.flushPort p).notices = noticesAfter s.notices (s.port p).queue := by
  rw [flushPort_eq, noticeLeft_eq]
  simp

/-- A departure from UP (R114, R123). -/
theorem leaveUp_buf (s : State) (p : Port) (d : LinkState) (c : BufId) :
    (s.leaveUp p d).buf c = (s.buf c).less ((flushedRefs (s.port p)).count c) := flushPort_buf s p c

theorem leaveUp_pool (s : State) (p : Port) (d : LinkState) :
    (s.leaveUp p d).pool = { s.pool with bufs := (s.leaveUp p d).pool.bufs } := flushPort_pool s p

/-- A rise of the score and its notice (R130 to R132). -/
theorem scoreRise_notices (s : State) (p : Port) (w : Nat) :
    (s.scoreRise p w).notices =
      warnedNotices s.notices p (s.port p) (risen (s.port p) w (s.leakFromNow (s.port p))) s.cellTime := by
  unfold State.scoreRise
  rw [warnedTest_notices]
  simp [warnedNotices, risen, portSubject, State.cellTime]

@[simp] theorem scoreRise_buf (s : State) (p : Port) (w : Nat) (c : BufId) : (s.scoreRise p w).buf c = s.buf c := by
  unfold State.buf
  rw [scoreRise_pool]

/-- Entry to QUARANTINE (R133). -/
theorem enterQuarantine_buf (s : State) (p : Port) (c : BufId) :
    (s.enterQuarantine p).buf c =
      (s.buf c).less (if (s.port p).isUp then (flushedRefs (s.port p)).count c else 0) := by
  unfold State.enterQuarantine
  dsimp only
  show (State.buf _ c) = _
  split
  · exact flushPort_buf s p c
  · rfl

theorem enterQuarantine_pool (s : State) (p : Port) :
    (s.enterQuarantine p).pool = { s.pool with bufs := (s.enterQuarantine p).pool.bufs } := by
  unfold State.enterQuarantine
  dsimp only
  simp only [State.raise_pool, State.setPort_pool]
  split
  · exact flushPort_pool s p
  · rfl

theorem enterQuarantine_notices (s : State) (p : Port) :
    (s.enterQuarantine p).notices =
      pushNotice (if (s.port p).isUp then noticesAfter s.notices (s.port p).queue else s.notices) .portQuarantined
        s.cellTime (byteOf p) (BitVec.ofNat 16 (s.port p).score) := by
  unfold State.enterQuarantine
  dsimp only
  by_cases h : (s.port p).isUp = true
  · simp [h, State.raise, State.raiseAt, State.cellTime, flushPort_notices, portSubject, flushed]
  · simp [h, State.raise, State.raiseAt, State.cellTime, portSubject]

/-- An allocation, as statements speak of it (R98, R99, R102). -/
theorem alloc_allocated {s t : State} {n : Nat} {b : BufId} (hn : 1 ≤ n) (h : s.alloc n = some (b, t)) :
    Allocated s t b := by
  have h1 : s.alloc Config.agentNeed = some (b, t) := by
    unfold State.alloc at h ⊢
    split at h
    · cases h
    · next hh =>
      rw [if_neg (by simp only [Config.agentNeed]; omega)]
      exact h
  have hf : 1 ≤ s.freeCount := (alloc_some h1).1
  obtain ⟨hb, _, hm, hbuf, hsame, hport, hh, he, hnot⟩ := alloc_agent_facts h1
  have hc : s.replyHolds = decide (s.pool.hold = .normal ∧ s.freeCount ≤ 12) := by
    unfold State.replyHolds
    by_cases h0 : s.pool.hold = .normal
    · simp [h0, hf]
    · simp [h0]
  refine ⟨hsame, hb, hbuf, ?_, fun p => ?_, ?_⟩
  · rw [hc] at hh he
    simp only [decide_eq_true_eq] at hh he
    generalize t.pool = q at hm hh he
    obtain ⟨bufs, m, hold, entries⟩ := q
    simp only at hm hh he
    rw [hm, hh, he]
  · rw [hport, hc]
    simp [Bool.and_eq_true]
  · rw [hnot, hc]
    simp

/-! ### Symbols and receive errors (R122, R125 to R128) -/

theorem isUp_link {x : PortRec} (h : x.isUp = true) : ∃ run held, x.link = .up run held := by
  unfold PortRec.isUp at h
  split at h
  · next e => exact ⟨_, _, e⟩
  · cases h

theorem isQuarantine_link {x : PortRec} (h : x.isQuarantine = true) : ∃ e, x.link = .quarantine e := by
  unfold PortRec.isQuarantine at h
  split at h
  · next e => exact ⟨_, e⟩
  · cases h

@[simp] theorem lockHeld_isUp (x : PortRec) : (lockHeld x).isUp = x.isUp := by
  unfold lockHeld PortRec.isUp
  cases x.link <;> rfl

/-- A symbol that is neither invalid nor HOLD nor RESUME, in UP (R122, R126). -/
theorem receive_up {s : State} {p : Port} {sym : Symbol} (hr : s.running = true) (hu : (s.port p).isUp = true)
    (h1 : sym ≠ .invalid) (h2 : sym ≠ .hold) (h3 : sym ≠ .resume) :
    s.receive p sym = (s.setPort p (lockHeld (s.port p))).delimit p sym := by
  obtain ⟨run, held, hl⟩ := isUp_link hu
  unfold State.receive
  rw [if_pos hr, hl]
  simp only
  unfold State.receiveUp
  have : s.partnerHold p held = s.setPort p (lockHeld (s.port p)) := by
    unfold State.partnerHold lockHeld
    rw [hl]
  cases sym <;> first | contradiction | rw [this]

theorem receive_quarantine {s : State} {p : Port} {sym : Symbol} (hr : s.running = true)
    (hu : (s.port p).isQuarantine = true) : s.receive p sym = s.delimit p sym := by
  obtain ⟨e, hl⟩ := isQuarantine_link hu
  unfold State.receive
  rw [if_pos hr, hl]

theorem byteError_eq (l : List Byte) (d : Byte) : byteError (l ++ [d]) = errorAt l (.data d) := by
  unfold byteError errorAt
  simp only [Config.payloadMax]
  generalize (l ++ [d]).length = n
  generalize (byteAt (l ++ [d]) 4).toNat = k
  by_cases a : n = 6 ∧ headerCheck ((l ++ [d]).take 5) ≠ byteAt (l ++ [d]) 5
  · simp [a]
  · rw [if_neg a, if_neg a]
    by_cases b : n = 6 ∧ 128 < k
    · simp [b]
    · by_cases c : 6 < n ∧ k + 8 < n
      · simp [b, c]
      · simp [b, c]

theorem eofError_eq (l : List Byte) : eofError l = errorAt l .eof := rfl

/-- Between frames a symbol has the meaning it has there (R126). -/
theorem delimit_between {s : State} {p : Port} (h : (s.port p).rx.inside = none) (sym : Symbol) :
    s.delimit p sym = s.frameSymbolOutside p sym := by
  unfold State.delimit
  cases hx : (s.port p).rx with
  | idle => rfl
  | ignoring => rfl
  | frame b l => rw [hx] at h; cases h
  | stripped l => rw [hx] at h; cases h

/-- A symbol inside a frame has the meaning it has there, but for EOF in a stripped one (R125 to R127). -/
theorem delimit_inside {s : State} {p : Port} {b : Option BufId} {l : List Byte}
    (h : (s.port p).rx.inside = some (b, l)) {sym : Symbol} (hs : sym ≠ .eof) :
    s.delimit p sym = s.frameSymbolInside p b l sym := by
  unfold State.delimit
  cases hx : (s.port p).rx with
  | idle => rw [hx] at h; cases h
  | ignoring => rw [hx] at h; cases h
  | frame c m => rw [hx] at h; cases h; rfl
  | stripped m =>
    rw [hx] at h
    cases h
    cases sym with
    | eof => exact absurd rfl hs
    | _ => rfl

/-- A receive error that a symbol makes inside a frame (R126, R127), an SOF's and an invalid symbol's apart. -/
theorem delimit_error {s : State} {p : Port} {b : Option BufId} {l : List Byte} {sym : Symbol} {e : RxError}
    (hrx : (s.port p).rx.inside = some (b, l)) (hs : sym ≠ .sof) (he : errorAt l sym = some e) :
    s.delimit p sym = s.rxError p b e (afterError sym) := by
  by_cases hsym : sym = .eof
  · subst hsym
    unfold State.delimit
    cases hx : (s.port p).rx with
    | idle => rw [hx] at hrx; cases hrx
    | ignoring => rw [hx] at hrx; cases hrx
    | frame c m =>
      rw [hx] at hrx
      cases hrx
      simp only [State.frameSymbolInside, State.rxEof, eofError_eq, he]
      rfl
    | stripped m =>
      rw [hx] at hrx
      cases hrx
      simp only [State.frameSymbolStripped, State.rxEofStripped, eofError_eq, he]
      rfl
  · rw [delimit_inside hrx hsym]
    simp only [State.frameSymbolInside]
    cases sym with
    | data d =>
      simp only [State.rxByte, byteError_eq, he]
      rfl
    | eof => exact absurd rfl hsym
    | sof => exact absurd rfl hs
    | idle => simp only [errorAt, Option.some.injEq] at he; subst he; rfl
    | align => simp only [errorAt, Option.some.injEq] at he; subst he; rfl
    | invalid => simp only [errorAt, Option.some.injEq] at he; subst he; rfl
    | hold => simp [errorAt] at he
    | resume => simp [errorAt] at he

/-- A receive error in UP (R127, R128, R130 to R133). -/
theorem rxError_up {s : State} {p : Port} (hu : (s.port p).isUp = true) (b : Option BufId) (e : RxError) (rx : Reception) :
    let r := scored (errorCounted (s.port p) b e rx) s.notices p (errorWeight e) s.localTime s.cellTime
    Released s (s.rxError p b e rx) p r.1 (b.toList ++ r.2.2) r.2.1 := by
  have hq : (s.port p).isQuarantine = false := by
    obtain ⟨_, _, hl⟩ := isUp_link hu
    simp [PortRec.isQuarantine, hl]
  unfold State.rxError
  dsimp only
  rw [if_pos hu]
  have hx : ({ s.port p with
      rx := rx
      counters := countDiscard (s.port p).isQuarantine b.isSome (countError e (s.port p).counters) } : PortRec)
      = errorCounted (s.port p) b e rx := by
    unfold errorCounted countDiscard
    cases b <;> simp [hq]
  have hxu : (errorCounted (s.port p) b e rx).isUp = true := hu
  rw [hx]
  generalize errorCounted (s.port p) b e rx = x at *
  generalize hv : ((s.setPort p x).dropRef? b).scoreRise p (errorWeight e) = v
  have h1 : s.sameButLinks v := by
    rw [← hv]
    exact sameButLinks_trans (sameButLinks_trans (setPort_sameButLinks _ _ _) (dropRef?_sameButLinks _ _))
      (scoreRise_sameButLinks _ _ _)
  have hlt : v.localTime = s.localTime := by rw [h1]
  have hct : v.cellTime = s.cellTime := by rw [h1]; rfl
  have h2 : v.port p = risen x (errorWeight e) (s.localTime + BitVec.ofNat 32 (x.cfg.leakInterval * 1000)) := by
    rw [← hv, scoreRise_port, if_pos rfl]
    simp [State.leakFromNow, State.after]
  have h3 : ∀ q, q ≠ p → v.port q = s.port q := by
    intro q h
    rw [← hv, scoreRise_port, if_neg h, dropRef?_port, State.port_setPort_ne _ _ h]
  have h4 : ∀ c, v.buf c = (s.buf c).less (b.toList.count c) := by
    intro c
    rw [← hv, scoreRise_buf, dropRef?_buf, State.buf_setPort]
  have h5 : v.pool = { s.pool with bufs := v.pool.bufs } := by
    rw [← hv, scoreRise_pool, dropRef?_pool, State.setPort_pool]
  have h6 : v.notices = warnedNotices s.notices p x
      (risen x (errorWeight e) (s.localTime + BitVec.ofNat 32 (x.cfg.leakInterval * 1000))) s.cellTime := by
    rw [← hv, scoreRise_notices]
    simp [State.leakFromNow, State.after, State.cellTime]
  generalize hy : risen x (errorWeight e) (s.localTime + BitVec.ofNat 32 (x.cfg.leakInterval * 1000)) = y at *
  have hyu : y.isUp = true := by rw [← hy]; exact hxu
  have hyc : y.cfg = x.cfg := by rw [← hy]; rfl
  have hyq : y.queue = x.queue := by rw [← hy]; rfl
  have hyf : flushedRefs y = flushedRefs x := by rw [← hy]; rfl
  unfold scored
  dsimp only
  rw [hy]
  rcases quarantineTest_cases v p with ⟨_, hs, ht⟩ | ⟨hs, ht⟩ <;> rw [ht]
  · rw [h2] at hs
    rw [if_pos hs]
    refine released_settle (sameButLinks_trans h1 (enterQuarantine_sameButLinks _ _)) ?_ ?_ ?_ ?_ ?_
    · rw [enterQuarantine_port, if_pos rfl, h2]
      simp [State.after, hlt, hyc]
    · intro q h
      rw [enterQuarantine_port, if_neg h, h3 q h]
    · intro c
      rw [enterQuarantine_buf, h2, hyu, hyf, h4, less_less, List.count_append]
      rfl
    · rw [enterQuarantine_pool, h5]
    · rw [enterQuarantine_notices, h2, hyu, h6, hct, hyq]
      rfl
  · rw [h2] at hs
    have := hs (.inl hyu)
    rw [if_neg (by omega)]
    refine released_settle h1 h2 h3 ?_ h5 h6
    intro c
    rw [h4]
    simp

/-- A receive error in QUARANTINE (R128, R134). -/
theorem rxError_quarantine {s : State} {p : Port} (hq : (s.port p).isQuarantine = true) (b : Option BufId) (e : RxError)
    (rx : Reception) :
    Released s (s.rxError p b e rx) p (errorCounted (s.port p) b e rx) b.toList s.notices := by
  have hu : (s.port p).isUp = false := by
    obtain ⟨_, hl⟩ := isQuarantine_link hq
    simp [PortRec.isUp, hl]
  unfold State.rxError
  dsimp only
  rw [if_neg (by simp [hu])]
  refine released_settle (sameButLinks_trans (setPort_sameButLinks _ _ _) (dropRef?_sameButLinks _ _)) ?_ ?_ ?_ ?_ ?_
  · rw [dropRef?_port, State.port_setPort_same]
    simp [errorCounted, countDiscard, hq]
  · intro q h
    rw [dropRef?_port, State.port_setPort_ne _ _ h]
  · intro c
    rw [dropRef?_buf, State.buf_setPort]
  · rw [dropRef?_pool, State.setPort_pool]
  · simp

end Sys2Proof.Machine
end

