-- ==== Sys2Proof/Laws/Images.lean ====
section
/-! SUPPORT. The checks made on the images of rules, flows and ports, field by field (R15, R77, R177). -/

namespace Sys2Proof.Machine

/-- Checks 2 to 9 of R15. -/
theorem ruleImageOk_iff (m : RuleImage) : ruleImageOk m = true ↔
    m.ingress ≠ 0 ∧ m.kinds ≠ 0 ∧ m.lo.toNat ≤ m.hi.toNat
      ∧ (m.dropAction = false → m.forward ≠ 0)
      ∧ (m.dropAction = true → m.hasPrio = false ∧ m.hasRewrite = false ∧ m.forward = 0)
      ∧ (m.hasRewrite = true → m.rwMask ≠ 0) ∧ (m.hasRewrite = false → m.rwValue = 0 ∧ m.rwMask = 0)
      ∧ (m.hasFlow = true → m.flowIx.toNat < 128) ∧ (m.hasFlow = false → m.flowIx = 0)
      ∧ (m.hasPrio = false → m.newPrio = 0)
      ∧ m.reserved0 = 0 ∧ m.reserved8 = 0 ∧ m.reserved9 = 0 ∧ m.reserved10 = 0 := by
  obtain ⟨v, da, hp, hr, hf, r0, mv, mm, ing, fwd, ks, r8, lo, hi, r9, np, r10, rv, rm, fi⟩ := m
  unfold ruleImageOk ruleReservedOk
  have h127 : fi.toNat < 128 ↔ fi.toNat ≤ 127 := by omega
  simp only [Bool.and_eq_true, Bool.or_eq_true, decide_eq_true_eq, beq_iff_eq, bne_iff_ne, Bool.not_eq_true', h127,
    BitVec.le_def]
  cases da <;> cases hp <;> cases hr <;> cases hf <;> simp <;> constructor <;> (intro h; simp_all)

/-- The entry that an accepted image's bound flow names: its index, which the checks keep below 128. -/
theorem flowArg_of_lt {x : Byte} (h : x.toNat < 128) : flowArg x = some (Fin.ofNat 128 x.toNat) := by
  unfold flowArg
  rw [dif_pos h]
  exact congrArg some (Fin.ext (Nat.mod_eq_of_lt h).symm)

/-- The ranges of R77. -/
theorem flowImageOk_iff (m : FlowImage) : flowImageOk m = true ↔
    100 ≤ m.period.toNat ∧ m.period.toNat ≤ 2000000 ∧ m.tolerance.toNat ≤ m.period.toNat / 2
      ∧ 1 ≤ m.lossLimit.toNat ∧ m.lossLimit.toNat ≤ 15 ∧ m.burst ≠ 0 ∧ m.overAction.toNat ≤ 1 ∧ m.notify.toNat < 8 := by
  have h : m.notify.extractLsb' 3 5 = 0 ↔ m.notify.toNat < 8 := by
    generalize m.notify = n
    revert n
    decide
  unfold flowImageOk
  simp only [Bool.and_eq_true, decide_eq_true_eq, beq_iff_eq, bne_iff_ne, h]
  tauto

/-- The ranges of R177. -/
theorem portImageOk_iff (m : PortImage) : portImageOk m = true ↔
    m.flags.toNat < 4 ∧ 1 ≤ m.queueLimit.toNat ∧ m.queueLimit.toNat ≤ 48
      ∧ 1 ≤ m.warnThreshold.toNat ∧ m.warnThreshold.toNat ≤ 1022 ∧ 1 ≤ m.leakInterval.toNat
      ∧ 1 ≤ m.holdLimit.toNat ∧ 1 ≤ m.quarantineHold.toNat
      ∧ m.warnThreshold.toNat < m.quarantineThreshold.toNat ∧ m.quarantineThreshold.toNat ≤ 1023 := by
  have h : m.flags.extractLsb' 2 6 = 0 ↔ m.flags.toNat < 4 := by
    generalize m.flags = n
    revert n
    decide
  unfold portImageOk
  simp only [Bool.and_eq_true, decide_eq_true_eq, beq_iff_eq, h]
  tauto

end Sys2Proof.Machine
end

