-- ==== Sys2Proof/Laws/Moves.lean ====
section
/-! SUPPORT. Happenings of one port, piece by piece: what a piece does to the port, the references it gives back and the
notices it leaves; how pieces compose; and that a happening's outcome is the one its `Released` tells. -/

namespace Sys2Proof.Machine

/-- A piece of a happening, from `s` to `v`: port `p` becomes `x`, references `bs` are given back, the notices become
`u`. The pool's hold state is not decided yet. -/
structure Moved (s v : State) (p : Port) (x : PortRec) (bs : List BufId) (u : NoticeUnit) : Prop where
  rest : s.sameButLinks v
  own : v.port p = x
  others : ∀ q, q ≠ p → v.port q = s.port q
  bufs : ∀ b, v.buf b = (s.buf b).less (bs.count b)
  pool : v.pool = { s.pool with bufs := v.pool.bufs }
  notices : v.notices = u

theorem Moved.settle {s v : State} {p : Port} {x : PortRec} {bs : List BufId} {u : NoticeUnit} (h : Moved s v p x bs u) :
    Released s (v.settle s) p x bs u :=
  released_settle h.rest h.own h.others h.bufs h.pool h.notices

theorem Moved.refl (s : State) (p : Port) : Moved s s p (s.port p) [] s.notices :=
  ⟨sameButLinks_refl s, rfl, fun _ _ => rfl, fun _ => rfl, rfl, rfl⟩

theorem Moved.trans {s v w : State} {p : Port} {x y : PortRec} {bs cs : List BufId} {u n : NoticeUnit}
    (h : Moved s v p x bs u) (k : Moved v w p y cs n) : Moved s w p y (bs ++ cs) n := by
  refine ⟨sameButLinks_trans h.rest k.rest, k.own, fun q hq => by rw [k.others q hq, h.others q hq], fun b => ?_, ?_,
    k.notices⟩
  · rw [k.bufs, h.bufs, less_less, List.count_append]
  · rw [k.pool, h.pool]

theorem moved_setPort (s : State) (p : Port) (x : PortRec) : Moved s (s.setPort p x) p x [] s.notices :=
  ⟨setPort_sameButLinks s p x, by simp, fun q hq => State.port_setPort_ne s x hq, fun _ => rfl, rfl, rfl⟩

theorem moved_flush (s : State) (p : Port) :
    Moved s (s.flushPort p) p (flushed (s.port p)) (flushedRefs (s.port p)) (noticesAfter s.notices (s.port p).queue) :=
  ⟨flushPort_sameButLinks s p, by simp, fun q hq => by rw [flushPort_port, if_neg hq], flushPort_buf s p,
    flushPort_pool s p, flushPort_notices s p⟩

theorem moved_leaveUp (s : State) (p : Port) (d : LinkState) :
    Moved s (s.leaveUp p d) p { flushed (s.port p) with link := d, ctl := [] } (flushedRefs (s.port p))
      (pushNotice (noticesAfter s.notices (s.port p).queue) .portDown s.cellTime (byteOf p)
        ((linkCode d).setWidth 16)) :=
  ⟨leaveUp_sameButLinks s p d, by rw [leaveUp_port, if_pos rfl], fun q hq => by rw [leaveUp_port, if_neg hq],
    leaveUp_buf s p d, leaveUp_pool s p d, by rw [leaveUp_notices, flushPort_notices]; rfl⟩

theorem moved_warnedTest (s : State) (p : Port) :
    Moved s (s.warnedTest p) p { s.port p with warned := warnedAfter (s.port p) } []
      (warnedNotices s.notices p (s.port p) { s.port p with warned := warnedAfter (s.port p) } s.cellTime) :=
  ⟨warnedTest_sameButLinks s p, by rw [warnedTest_port, if_pos rfl], fun q hq => by rw [warnedTest_port, if_neg hq],
    fun b => by unfold State.buf; rw [warnedTest_pool]; rfl, by rw [warnedTest_pool], warnedTest_notices s p⟩

theorem moved_enterQuarantine (s : State) (p : Port) :
    Moved s (s.enterQuarantine p) p
      (quarantined (s.port p) (s.localTime + BitVec.ofNat 32 ((s.port p).cfg.quarantineHold * 100000)))
      (if (s.port p).isUp then flushedRefs (s.port p) else [])
      (pushNotice (if (s.port p).isUp then noticesAfter s.notices (s.port p).queue else s.notices) .portQuarantined
        s.cellTime (byteOf p) (BitVec.ofNat 16 (s.port p).score)) := by
  refine ⟨enterQuarantine_sameButLinks s p, by rw [enterQuarantine_port, if_pos rfl]; rfl,
    fun q hq => by rw [enterQuarantine_port, if_neg hq], fun b => ?_, enterQuarantine_pool s p,
    enterQuarantine_notices s p⟩
  rw [enterQuarantine_buf]
  split <;> rfl

/-- The references that the end of a reception gives back. -/
def rxRefs (x : PortRec) : List BufId :=
  match x.rx with
  | .frame (some b) _ => [b]
  | _ => []

theorem moved_dropReception (s : State) (p : Port) :
    Moved s (s.dropReception p) p { s.port p with rx := .idle } (rxRefs (s.port p)) s.notices := by
  refine ⟨dropReception_sameButLinks s p, by rw [dropReception_port, if_pos rfl],
    fun q hq => by rw [dropReception_port, if_neg hq], fun b => ?_, ?_, dropReception_notices s p⟩
  · have e : rxRefs (s.port p) = (s.port p).rx.buffer.toList := by
      unfold rxRefs
      cases (s.port p).rx with
      | frame o l => cases o <;> rfl
      | _ => rfl
    unfold State.dropReception
    rw [e, dropRef?_buf]
    rfl
  · exact dropRef?_pool (s.setPort p _) _

/-- The quarantine test, when the score is below the threshold or the port neither UP nor TRAINING. -/
theorem moved_quarantineTest_none {s : State} {p : Port}
    (h : ((s.port p).isUp || (s.port p).isTraining) = false ∨ (s.port p).score < (s.port p).cfg.quarantineThreshold) :
    Moved s (s.quarantineTest p) p (s.port p) [] s.notices := by
  have e : s.quarantineTest p = s := by
    unfold State.quarantineTest
    dsimp only
    rw [if_neg]
    rcases h with h | h
    · simp [h]
    · simp [h]
  rw [e]
  exact Moved.refl s p

/-- The quarantine test, when it takes the port to QUARANTINE. -/
theorem quarantineTest_enters {s : State} {p : Port} (hu : ((s.port p).isUp || (s.port p).isTraining) = true)
    (h : (s.port p).cfg.quarantineThreshold ≤ (s.port p).score) : s.quarantineTest p = s.enterQuarantine p := by
  unfold State.quarantineTest
  dsimp only
  rw [if_pos (by simp [hu, h])]

/-- The end of a quarantine (R135). -/
theorem moved_endQuarantine {s : State} {p : Port} (hq : 1 ≤ (s.port p).cfg.quarantineThreshold) :
    Moved s (s.endQuarantine p) p { training (s.port p) with score := 0, warned := false, nextLeak := none }
      (rxRefs (s.port p)) s.notices := by
  unfold State.endQuarantine State.enterTraining
  dsimp only
  have h1 := moved_setPort s p { s.port p with score := 0, warned := false, nextLeak := none }
  have h2 := moved_dropReception (s.setPort p { s.port p with score := 0, warned := false, nextLeak := none }) p
  rw [h1.own] at h2
  generalize State.dropReception _ p = v at h2
  have h3 := moved_setPort v p { v.port p with link := .training 0 }
  rw [h2.own] at h3
  rw [h2.own]
  have h4 := moved_quarantineTest_none
    (s := v.setPort p { s.port p with score := 0, warned := false, nextLeak := none, rx := .idle, link := .training 0 })
    (p := p) (.inr (by rw [State.port_setPort_same]; exact hq))
  rw [h3.own] at h4
  have h5 := ((h1.trans h2).trans h3).trans h4
  have e : ∀ x, (v.setPort p x).notices = s.notices := fun _ => h2.notices
  rw [e, List.append_nil, List.append_nil, List.nil_append] at h5
  exact h5

theorem moved_enable (s : State) (p : Port) :
    Moved s (s.enablePort p) p
      { s.port p with
        link := match (s.port p).link with
          | .disabled => if (s.port p).signal then .training 0 else .down
          | l => l } [] s.notices := by
  unfold State.enablePort
  dsimp only
  cases h : (s.port p).link with
  | disabled => exact moved_setPort s p _
  | _ =>
    dsimp only
    rw [← h]
    exact Moved.refl s p

theorem moved_resumeLeak (s : State) (p : Port) :
    Moved s (s.resumeLeak p) p
      { s.port p with
        nextLeak := if (s.port p).score = 0 then none
          else some (s.localTime + BitVec.ofNat 32 ((s.port p).cfg.leakInterval * 1000)) } [] s.notices :=
  moved_setPort s p _

/-- The enable setting's change (R124, R129, R135). -/
theorem moved_applyEnable (s : State) (p : Port) (old : Bool) :
    let a := enableApplied (s.port p) old s.notices p s.localTime s.cellTime
    Moved s (s.applyEnable p old (s.port p).cfg.enable) p a.1 a.2.2 a.2.1 := by
  unfold State.applyEnable enableApplied
  dsimp only
  by_cases h : ((s.port p).cfg.enable && !old) = true
  · rw [if_pos h, if_pos h]
    exact moved_enable s p
  · rw [if_neg h, if_neg h]
    by_cases h2 : (!(s.port p).cfg.enable && old) = true
    · rw [if_pos h2, if_pos h2]
      unfold State.disablePort
      have hdrop : ∀ {v : State} {x bs u}, Moved s v p x bs u →
          Moved s (v.dropReception p) p { x with rx := .idle } (bs ++ rxRefs x) u := by
        intro v x bs u hv
        have hd := moved_dropReception v p
        rw [hv.own, hv.notices] at hd
        exact hv.trans hd
      cases hl : (s.port p).link with
      | disabled =>
        show Moved s (s.dropReception p) p { s.port p with link := .disabled, rx := .idle } (rxRefs (s.port p)) s.notices
        rw [← hl]
        exact hdrop (Moved.refl s p)
      | down => exact hdrop (moved_setPort s p { s.port p with link := .disabled })
      | training n => exact hdrop (moved_setPort s p { s.port p with link := .disabled })
      | up run held => exact hdrop (moved_leaveUp s p .disabled)
      | quarantine e =>
        have h1 := moved_setPort s p { s.port p with link := .disabled }
        have h3 := moved_resumeLeak (s.setPort p { s.port p with link := .disabled }) p
        rw [h1.own] at h3
        exact hdrop (h1.trans h3)
    · rw [if_neg h2, if_neg h2]
      exact Moved.refl s p

/-- A port given a configuration, in the order of R138. -/
theorem released_applyConfig (s : State) (p : Port) (c : PortConfig) :
    let x := configured (s.port p) c s.notices p s.localTime s.cellTime
    Released s (s.applyConfig p c) p x.1 x.2.2 x.2.1 := by
  have h1 := moved_setPort s p { s.port p with cfg := c }
  have h2 := moved_applyEnable (s.setPort p { s.port p with cfg := c }) p (s.port p).cfg.enable
  dsimp only at h2
  rw [h1.own] at h2
  have h12 := h1.trans h2
  unfold State.applyConfig configured
  dsimp only
  change Moved s ((s.setPort p { s.port p with cfg := c }).applyEnable p (s.port p).cfg.enable c.enable) p
    (enableApplied { s.port p with cfg := c } (s.port p).cfg.enable s.notices p s.localTime s.cellTime).1
    (enableApplied { s.port p with cfg := c } (s.port p).cfg.enable s.notices p s.localTime s.cellTime).2.2
    (enableApplied { s.port p with cfg := c } (s.port p).cfg.enable s.notices p s.localTime s.cellTime).2.1 at h12
  have hcfg : (enableApplied { s.port p with cfg := c } (s.port p).cfg.enable s.notices p s.localTime s.cellTime).1.cfg
      = c := by
    unfold enableApplied
    split
    · rfl
    · split
      · dsimp only
        split <;> rfl
      · rfl
  generalize enableApplied { s.port p with cfg := c } (s.port p).cfg.enable s.notices p s.localTime s.cellTime = a
    at h12 hcfg
  generalize (s.setPort p { s.port p with cfg := c }).applyEnable p (s.port p).cfg.enable c.enable = v at h12
  have ht : v.localTime = s.localTime := by rw [h12.rest]
  have ho : v.offset = s.offset := by rw [h12.rest]
  have h3 : Moved s (v.applyLeak p (s.port p).cfg) p
      (if c.leakInterval = (s.port p).cfg.leakInterval then a.1
        else { a.1 with nextLeak := a.1.nextLeak.map fun _ => s.localTime + BitVec.ofNat 32 (c.leakInterval * 1000) })
      a.2.2 a.2.1 := by
    unfold State.applyLeak
    dsimp only
    rw [h12.own, congrArg PortConfig.leakInterval hcfg]
    by_cases e : c.leakInterval = (s.port p).cfg.leakInterval
    · rw [if_pos e, if_neg (not_not.2 e)]
      exact h12
    · rw [if_neg e, if_pos e]
      have h := moved_setPort v p { a.1 with nextLeak := a.1.nextLeak.map fun _ => v.leakFromNow a.1 }
      rw [h12.notices] at h
      have h := h12.trans h
      rw [List.append_nil] at h
      have hl : v.leakFromNow a.1 = s.localTime + BitVec.ofNat 32 (c.leakInterval * 1000) := by
        unfold State.leakFromNow State.after
        rw [hcfg, ht]
      rw [hl] at h ⊢
      exact h
  generalize hy : (if c.leakInterval = (s.port p).cfg.leakInterval then a.1
    else { a.1 with nextLeak := a.1.nextLeak.map fun _ => s.localTime + BitVec.ofNat 32 (c.leakInterval * 1000) }) = y
    at h3
  have hycfg : y.cfg = c := by
    rw [← hy]
    split <;> exact hcfg
  generalize v.applyLeak p (s.port p).cfg = w at h3
  have ht : w.localTime = s.localTime := by rw [h3.rest]
  have ho : w.offset = s.offset := by rw [h3.rest]
  have hct : w.cellTime = s.cellTime := by unfold State.cellTime; rw [ht, ho]
  have h4 := moved_warnedTest w p
  rw [h3.own, h3.notices, hct] at h4
  have h4 := h3.trans h4
  rw [List.append_nil] at h4
  generalize w.warnedTest p = z at h4
  have ht : z.localTime = s.localTime := by rw [h4.rest]
  have ho : z.offset = s.offset := by rw [h4.rest]
  have hct : z.cellTime = s.cellTime := by unfold State.cellTime; rw [ht, ho]
  split
  · next hq =>
    rw [Bool.and_eq_true, decide_eq_true_eq] at hq
    rw [quarantineTest_enters (by rw [h4.own]; exact hq.1) (by rw [h4.own]; exact hycfg ▸ hq.2)]
    have h5 := moved_enterQuarantine z p
    rw [h4.own, h4.notices, ht, hct,
      show ({ y with warned := warnedAfter y } : PortRec).cfg.quarantineHold = c.quarantineHold from
        congrArg PortConfig.quarantineHold hycfg] at h5
    exact (h4.trans h5).settle
  · next hq =>
    rw [Bool.and_eq_true, decide_eq_true_eq, not_and] at hq
    have h5 := moved_quarantineTest_none (s := z) (p := p) (by
      rw [h4.own]
      cases hb : ({ y with warned := warnedAfter y } : PortRec).isUp || ({ y with warned := warnedAfter y } : PortRec).isTraining
      · exact .inl rfl
      · exact .inr (by have := hq hb; dsimp only at this ⊢; rw [hycfg]; omega))
    rw [h4.own, h4.notices] at h5
    have h6 := (h4.trans h5).settle
    rw [List.append_nil] at h6
    exact h6

/-! ### The outcome of a happening is the one its `Released` tells -/

theorem pool_ext {p q : Pool} (hb : ∀ b, p.bufs.get b = q.bufs.get b) (hm : p.minFree = q.minFree)
    (hh : p.hold = q.hold) (he : p.holdEntries = q.holdEntries) : p = q := by
  cases p
  cases q
  simp only [Pool.mk.injEq]
  exact ⟨ext_get hb, hm, hh, he⟩

theorem freeCount_congr {s t : State} (h : ∀ b, s.buf b = t.buf b) : s.freeCount = t.freeCount := by
  unfold State.freeCount Pool.freeCount
  congr 1
  funext b
  have := h b
  unfold State.buf at this
  rw [this]

/-- References given back never lower the free count. -/
theorem Released.freeCount_le {s t : State} {p : Port} {x : PortRec} {bs : List BufId} {u : NoticeUnit}
    (h : Released s t p x bs u) : s.freeCount ≤ t.freeCount := by
  have e : t.freeCount = (s.dropRefs bs).freeCount := freeCount_congr fun b => by
    rw [h.bufs, dropRefs_buf, dropBuffer_iterate]
  rw [e]
  exact dropRefs_freeCount_le s bs

/-- Two releases one after the other, the second of which leaves the port out of UP, are one: at most one of them takes
the pool out of HOLDING. -/
theorem Released.trans {s v t : State} {p : Port} {x y : PortRec} {bs cs : List BufId} {u n : NoticeUnit}
    (h : Released s v p x bs u) (k : Released v t p y cs n) (hy : y.isUp = false) :
    Released s t p y (bs ++ cs) n := by
  have h1 := h.freeCount_le
  have h2 := k.freeCount_le
  have hhold : v.pool.hold = if s.resumed v then .normal else s.pool.hold := by rw [h.pool]
  have hex : s.resumed v = true → v.resumed t = false := by
    intro hs
    rw [if_pos hs] at hhold
    unfold State.resumed
    rw [hhold]
    rfl
  have hres : s.resumed t = (s.resumed v || v.resumed t) := by
    cases hc : s.resumed v with
    | true =>
      unfold State.resumed at hc ⊢
      simp only [Bool.and_eq_true, decide_eq_true_eq] at hc
      simp only [hc.1.1, Bool.true_and, Bool.true_or, Bool.and_eq_true, decide_eq_true_eq]
      omega
    | false =>
      rw [hc, if_neg Bool.false_ne_true] at hhold
      unfold State.resumed at hc ⊢
      rw [hhold]
      cases hh : s.pool.hold != .normal with
      | false => rfl
      | true =>
        rw [hh] at hc
        simp only [Bool.true_and, Bool.false_or, Bool.and_eq_false_iff, decide_eq_false_iff_not] at hc ⊢
        rw [Bool.eq_iff_iff]
        simp only [Bool.and_eq_true, decide_eq_true_eq]
        omega
  refine ⟨?_, fun b => ?_, ?_, ?_, fun q hq => ?_⟩
  · rw [k.rest, h.rest]
  · rw [k.bufs, h.bufs, less_less, List.count_append]
  · rw [k.pool, hres]
    dsimp only
    rw [h.pool]
    cases s.resumed v <;> cases v.resumed t <;> rfl
  · rw [k.own]
    simp [hy]
  · rw [k.others q hq, h.others q hq, hres]
    have e : ∀ c, ({ s.port q with ctl := c } : PortRec).isUp = (s.port q).isUp := fun _ => rfl
    rw [e]
    cases h5 : (s.port q).isUp <;> cases h3 : s.resumed v <;> cases h4 : v.resumed t <;> simp_all

/-- What a happening leaves does not depend on the Agent. -/
theorem Released.with_agent {s t t' : State} {a : Agent} {p : Port} {x : PortRec} {bs : List BufId} {u : NoticeUnit}
    (h : Released s t p x bs u) (h' : Released { s with agent := a } t' p x bs u) : t' = { t with agent := a } := by
  have hb : ∀ b, t'.buf b = t.buf b := fun b => by rw [h'.bufs, h.bufs]; rfl
  have hf : t'.freeCount = t.freeCount := freeCount_congr hb
  have hr : ({ s with agent := a } : State).resumed t' = s.resumed t := by
    unfold State.resumed
    rw [hf]
    rfl
  have hports : t'.ports = t.ports := by
    apply ext_get
    intro q
    by_cases e : q = p
    · subst e
      have h1 := h.own
      have h2 := h'.own
      rw [hr] at h2
      exact h2.trans h1.symm
    · have h1 := h.others q e
      have h2 := h'.others q e
      rw [hr] at h2
      exact h2.trans h1.symm
  have hpool : t'.pool = t.pool := by
    apply pool_ext hb
    · rw [h'.pool, h.pool]
    · rw [h'.pool, h.pool]
      dsimp only
      rw [hr]
    · rw [h'.pool, h.pool]
  rw [h'.rest, h.rest]
  dsimp only
  rw [hports, hpool]

/-- A buffer that gives back references keeps the pool's form (R100). -/
theorem Released.wf {s t : State} {p : Port} {x : PortRec} {bs : List BufId} {u : NoticeUnit}
    (h : Released s t p x bs u) (hw : s.pool.wf) : t.pool.wf := by
  intro b h0
  have hb : t.pool.bufs.get b = (s.pool.bufs.get b).less (bs.count b) := h.bufs b
  rw [hb] at h0 ⊢
  unfold Buffer.less at h0 ⊢
  split
  · next e => rw [if_pos e] at h0; exact hw b h0
  · next e =>
    rw [if_neg e] at h0
    split
    · rfl
    · next e2 => rw [if_neg e2] at h0; dsimp only at h0; omega

/-- A buffer not among those given back is as it was. -/
theorem Released.buf_keep {s t : State} {p : Port} {x : PortRec} {bs : List BufId} {u : NoticeUnit}
    (h : Released s t p x bs u) {b : BufId} (hb : b ∉ bs) : t.buf b = s.buf b := by
  rw [h.bufs, List.count_eq_zero.2 hb, less_zero]

theorem Released.localTime {s t : State} {p : Port} {x : PortRec} {bs : List BufId} {u : NoticeUnit}
    (h : Released s t p x bs u) : t.localTime = s.localTime := by
  rw [h.rest]

/-- The references a reconfigured port gives back are among those it holds (R97). -/
theorem configured_refs (x : PortRec) (c : PortConfig) (u : NoticeUnit) (p : Port) (now time : Instant) {b : BufId}
    (h : b ∈ (configured x c u p now time).2.2) : b ∈ x.held := by
  have hx : ∀ b, b ∈ x.held ↔ b ∈ rxRefs x ∨ b ∈ flushedRefs x := by
    intro b
    unfold PortRec.held rxRefs flushedRefs
    simp only [List.mem_append, or_assoc] <;> exact Iff.rfl
  have ha : (∀ b ∈ (enableApplied { x with cfg := c } x.cfg.enable u p now time).2.2, b ∈ x.held)
      ∧ ((enableApplied { x with cfg := c } x.cfg.enable u p now time).1.isUp = true →
        flushedRefs (enableApplied { x with cfg := c } x.cfg.enable u p now time).1 = flushedRefs x) := by
    unfold enableApplied
    split
    · exact ⟨fun b hb => by simp at hb, fun _ => rfl⟩
    · split
      · have hr : ∀ b, b ∈ (match x.rx with
            | .frame (some b) _ => [b]
            | _ => []) → b ∈ x.held := fun b hb => (hx b).2 (.inl hb)
        cases hl : x.link with
        | up run held =>
          refine ⟨fun b hb => ?_, fun h => by simp [PortRec.isUp] at h⟩
          rcases List.mem_append.1 hb with hb | hb
          · exact (hx b).2 (.inr hb)
          · exact hr b hb
        | disabled => exact ⟨hr, fun h => by simp [PortRec.isUp] at h⟩
        | _ => exact ⟨hr, fun h => by simp [PortRec.isUp] at h⟩
      · exact ⟨fun b hb => by simp at hb, fun _ => rfl⟩
  unfold configured at h
  dsimp only at h
  generalize enableApplied { x with cfg := c } x.cfg.enable u p now time = a at ha h
  by_cases hc : c.leakInterval = x.cfg.leakInterval
  · simp only [if_pos hc] at h
    split at h
    · rcases List.mem_append.1 h with h | h
      · exact ha.1 b h
      · split at h
        · next hz => exact (hx b).2 (.inr (by rw [← ha.2 hz]; exact h))
        · simp at h
    · exact ha.1 b h
  · simp only [if_neg hc] at h
    split at h
    · rcases List.mem_append.1 h with h | h
      · exact ha.1 b h
      · split at h
        · next hz => exact (hx b).2 (.inr (by rw [← ha.2 hz]; exact h))
        · simp at h
    · exact ha.1 b h

end Sys2Proof.Machine
end

