-- ==== Sys2Proof/WellFormed.lean ====
section
/-! DEFINITION. Which commands are well formed. Ports, flows, bytes and code groups are in range by their
types; one check is left: the symbol of a RECEIVE_ERROR is one at which R127 can detect an error. -/

namespace Sys2Proof

/-- Whether R127 can detect a receive error at this symbol, an invalid one (its own row, INVALID_SYMBOL)
apart: HOLD and RESUME never end a frame (R126). -/
def Symbol.canEndFrame : Symbol → Bool
  | .data _ => true
  | .idle => true
  | .align => true
  | .sof => true
  | .eof => true
  | .hold => false
  | .resume => false
  | .invalid => false

/-- A command is well formed when its operands name a happening of its row. -/
def Instr.wellFormed : Instr → Bool
  | .receiveError _ sym => sym.canEndFrame
  | .powerOn _ _ => true
  | .resetHeld => true
  | .signalDetected _ => true
  | .signalLost _ => true
  | .trainingSymbol _ _ => true
  | .sofReceived _ => true
  | .dataByteReceived _ _ => true
  | .frameEnd _ => true
  | .invalidSymbol _ => true
  | .holdReceived _ => true
  | .resumeReceived _ => true
  | .holdExpiry _ => true
  | .leak _ => true
  | .quarantineEnd _ => true
  | .holdRepeat => true
  | .selection _ => true
  | .transmissionEnd _ => true
  | .deadlineExpiry _ => true
  | .fillUp _ => true
  | .leaseExpiry => true
  | .activation => true
  | .mirrorStep => true
  | .agentReady => true
  | .requesterEntryExpiry _ => true
  | .malformed => true
  | .replay => true
  | .unknownCommand => true
  | .identify => true
  | .readCountersPort => true
  | .readCountersPool => true
  | .readCountersAgent => true
  | .readCountersRules => true
  | .adjustTime => true
  | .openEdit => true
  | .writeRule => true
  | .clearRules => true
  | .writeMiss => true
  | .readRules => true
  | .commitNow => true
  | .commitAt => true
  | .abandon => true
  | .writeFlow => true
  | .readFlow => true
  | .setPort => true
  | .readPort => true
  | .releasePort => true
  | .setNotices => true
  | .resetTraffic => true
  | .resetFull => true
  | .noticeBuild => true

end Sys2Proof
end

