-- ==== Sys2Proof/Tests/Slice0.lean ====
section
/-! SUPPORT. Small tests of the commands, each about one step, with results taken from the manual's examples; and, for
every obligation with hypotheses, a named theorem with a concrete state and operands that meet them. -/

open Sys2Proof Sys2Proof.Machine

set_option Elab.async false

namespace Sys2Proof.Tests

/-! ### Small states -/

/-- Station 3, every other strap low. -/
def st : Straps := { station := 3, missFlood := false, mgmtP0Only := false }

/-- A port after power-on, moved to UP. -/
def upPort (p : Port) : PortRec := { initialPort st 0xF p with link := .up 0 none }

/-- The part after power-on with its four ports UP and no record waiting, at local time `now`. -/
def upAt (now : Instant) : State :=
  { State.powerOn st 0xF with
    localTime := now
    ports := Vector.ofFn upPort
    notices := { initialNotices with queue := [] } }

/-- The state a command leaves. -/
def after (c : Instr) (s : State) : State :=
  match exec c s with
  | .next t => t
  | _ => s

/-- A port changed. -/
def put (p : Port) (f : PortRec → PortRec) (s : State) : State := s.setPort p (f (s.port p))

/-- A port's state changed. -/
def linked (p : Port) (l : LinkState) (s : State) : State := put p (fun x => { x with link := l }) s

/-- Buffers 0 to `n - 1` in other hands. -/
def occupied (n : Nat) (s : State) : State :=
  { s with pool := { s.pool with
    bufs := Vector.ofFn fun b : BufId => if b.val < n then { refs := 1, bytes := [] } else s.pool.bufs.get b
    minFree := 96 - n } }

/-- Port `p` inside a frame in buffer 0, with bytes `l` counted. -/
def inside (p : Port) (l : List Byte) (s : State) : State :=
  put p (fun x => { x with rx := .frame (some 0) l }) (s.setBuf 0 { refs := 1, bytes := l })

/-- Port `p` inside a frame with bytes `l` whose buffer a FULL reset has taken at this very instant. -/
def stripped (p : Port) (l : List Byte) (s : State) : State := put p (fun x => { x with rx := .stripped l }) s

/-- A frame with an empty payload. -/
def emptyFrame (kind : FrameKind) (prio : Prio) (hop : Hop) (tag : Tag) : List Byte :=
  frameBytes { kind, prio, hop, tag, payloadLength := 0 } []

/-- A rule entry that every DATA frame of tag 0x45.... on P0 matches. -/
def rule45 (action : RuleAction) (flow : Option FlowIx) : RuleEntry :=
  { valid := true, matchValue := 0x450000, matchMask := 0xFF0000, ingress := 1, kinds := 1, lo := 0, hi := 7
    action, flow }

/-- A rule entry at position `i` of the active bank. -/
def ruled (i : RulePos) (e : RuleEntry) (s : State) : State :=
  { s with banks := s.banks.set s.active { s.activeBank with entries := s.activeBank.entries.set i e } }

/-- A request's bytes as they stand in its buffer: priority 5, hop 7, station 3, handle 0x0042, sequence number 17. -/
def requestBytes (code : Byte) (args : List Byte) : List Byte :=
  [0x6F, 3, 0x00, 0x42, byteOf (args.length + 3), 0] ++ [code, 0, 17] ++ args ++ [0, 0]

/-- A request from port `p` at the head of the queue of a READY Agent, in buffer 0. -/
def asking (p : Port) (code : Byte) (args : List Byte) (s : State) : State :=
  { s.setBuf 0 { refs := 1, bytes := requestBytes code args } with
    agent := { s.agent with queue := [{ buf := 0, port := p }] } }

/-- That request, as the Agent reads it. -/
def taken (p : Port) (code : Byte) (args : List Byte) : Taken := takenOf { buf := 0, port := p } (requestBytes code args)

/-- The requester of that request. -/
def key (p : Port) : Key := { port := p, handle := 0x0042 }

/-- Its entry in the table, with a number and a cached reply. -/
def entryOf (p : Port) (seq : Half) (reply : List Byte) (lastUsed : Instant) : Requester :=
  { key := key p, seq, reply, lastUsed }

/-- The payload of the first entry of a port's queue. -/
def sentOn (p : Port) (s : State) : Option (List Byte) :=
  (s.port p).queue.head?.map fun e => payloadOf (s.buf e.buf).bytes

/-- What a reply to a request holds behind its code and number: the status and the results. -/
def answerOn (p : Port) (s : State) : Option (List Byte) := (sentOn p s).map (List.drop 3)

/-- The request of `asking` is carried out, as the command it names, with these arguments, for this requester. -/
theorem asked {p : Port} {code : Byte} {args : List Byte} {s : State} {n : Nat} (hn : args.length = n) (h : n ≤ 125)
    (hr : s.running = true) (hb : s.agent.busyUntil = none) (ht : s.agent.table = []) (hw : s.pool.wf) :
    (asking p code args s).carriesCommand (taken p code args) code n ∧ (taken p code args).args = args
      ∧ (taken p code args).key = key p := by
  have hp : (taken p code args).payload = [code, 0, 17] ++ args := by
    show payloadOf (requestBytes code args) = _
    unfold payloadOf requestBytes
    have h5 : (byteAt ([0x6F, 3, 0x00, 0x42, byteOf (args.length + 3), 0] ++ [code, 0, 17] ++ args ++ [0, 0]) 4).toNat
        = args.length + 3 := by
      show (byteOf (args.length + 3)).toNat = _
      unfold byteOf
      rw [BitVec.toNat_ofNat]; omega
    rw [h5]
    show List.take (args.length + 3) (code :: 0 :: 17 :: (args ++ [0, 0])) = _
    rw [List.take_succ_cons, List.take_succ_cons, List.take_succ_cons, List.take_left]
    rfl
  have hc : (taken p code args).code = code := by unfold Taken.code; rw [hp]; rfl
  have ha : (taken p code args).args = args := by unfold Taken.args; rw [hp]; rfl
  have hbuf : (asking p code args s).buf 0 = { refs := 1, bytes := requestBytes code args } := State.buf_setBuf_same ..
  have hk : handleOf ((3 : Byte) ++ (0 : Byte) ++ (0x42 : Byte)) = 0x0042 := by decide
  refine ⟨⟨⟨⟨hr, hb, ?_, ?_, ?_⟩, ?_, ?_⟩, hc, ?_⟩, ha, congrArg (Key.mk p) hk⟩
  · show some (takenOf _ ((asking p code args s).buf 0).bytes) = _
    rw [hbuf]; rfl
  · show ((asking p code args s).buf 0).refs = 1
    rw [hbuf]
  · exact wf_setBuf hw 0 (by simp)
  · rw [hp]; simp
  · show (List.find? _ s.agent.table).all _ = true
    rw [ht]; rfl
  · rw [ha]; exact hn

/-- The same with the four ports UP. -/
theorem asked_up {p : Port} {code : Byte} {args : List Byte} {now : Instant} {n : Nat} (hn : args.length = n)
    (h : n ≤ 125 := by decide) :
    (asking p code args (upAt now)).carriesCommand (taken p code args) code n ∧ (taken p code args).args = args
      ∧ (taken p code args).key = key p :=
  asked hn h rfl rfl rfl wf_reset

/-- The same in any state of the Bank Controller. -/
theorem asked_with (c : Controller) {p : Port} {code : Byte} {args : List Byte} {now : Instant} {n : Nat}
    (hn : args.length = n) (h : n ≤ 125 := by decide) :
    (asking p code args { upAt now with ctrl := c }).carriesCommand (taken p code args) code n
      ∧ (taken p code args).args = args ∧ (taken p code args).key = key p :=
  asked hn h rfl rfl rfl wf_reset

/-! ### Witnesses: concrete states and operands that meet the hypotheses of an obligation, clause by clause -/

theorem witness_EveryCommandAnswersAndKeepsTheClock :
    exec (.leak 0) State.reset = .next State.reset ∧ Instr.leak 0 ≠ .resetHeld
      ∧ (∀ x y, Instr.leak 0 ≠ .powerOn x y) ∧ Instr.leak 0 ≠ .adjustTime ∧ Instr.leak 0 ≠ .commitNow
      ∧ Instr.leak 0 ≠ .commitAt ∧ Instr.leak 0 ≠ .activation ∧ Instr.leak 0 ≠ .resetFull :=
  ⟨rfl, nofun, nofun, nofun, nofun, nofun, nofun, nofun⟩

theorem witness_ThePartRunsOnWithAnEmptyQueue :
    (let s := { upAt 0 with notices := initialNotices }
     s.pending = [] ∧ s.due = some .noticeBuild)
    ∧ (let s := linked 3 .down (put 1 (fun x => { x with ctl := [.hold] })
        (put 2 (fun x => { x with tx := some { buf := 0, left := 5 } }) (upAt 0)))
       s.pending = [] ∧ s.due = none ∧ s.running = true ∧ s.phase < 49 ∧ (s.port 3).isUp = false
        ∧ (s.port 1).isUp = true ∧ (s.port 1).ctl = .hold :: []
        ∧ (s.port 2).ctl = [] ∧ (s.port 2).tx = some { buf := 0, left := 5 }
        ∧ (s.port 0).ctl = [] ∧ (s.port 0).tx = none)
    ∧ (let s := { upAt 0 with phase := 49 }
       s.pending = [] ∧ s.due = none ∧ s.running = true ∧ 49 ≤ s.phase)
    ∧ (State.heldInReset st).pending = [] ∧ (State.heldInReset st).due = none
    ∧ (State.heldInReset st).running = false
    ∧ (upAt 0).agent.busyUntil = none
    ∧ (occupied 96 { upAt 0 with notices := initialNotices }).due = none
    ∧ (occupied 96 { upAt 0 with notices := initialNotices }).sendCondition = true := by
  decide +kernel

theorem witness_NothingHappensInReset :
    (State.heldInReset st).running = false ∧ Instr.leak 0 ≠ .resetHeld ∧ ∀ x y, Instr.leak 0 ≠ .powerOn x y :=
  ⟨rfl, nofun, nofun⟩

theorem witness_WhatIsNotDueChangesNothing :
    let s := State.reset
    s.leakDue 0 = false ∧ s.holdExpiryDue 0 = false ∧ s.quarantineDue 0 = false ∧ (s.port 0).canSelect = false ∧ s.transmissionOver 0 = false
      ∧ s.expiredDeadline 0 = none ∧ s.fillUpDue 0 = false ∧ s.bankDue = none ∧ s.poolDue = none
      ∧ s.busyOver = false ∧ s.takingDue ≠ some .identify
      ∧ (asking 0 0x01 [] s).takingDue = some .identify ∧ (asking 0 0x01 [] s).takingDue ≠ some .malformed := by
  decide +kernel

theorem witness_TheLinesShowTheState :
    (upAt 0).running = true
    ∧ ((linked 0 .disabled (upAt 0)).port 0).link = .disabled
    ∧ ((linked 0 .down (upAt 0)).port 0).link = .down
    ∧ ((linked 0 (.training 63) (upAt 0)).port 0).isTraining = true
    ∧ ((linked 0 (.quarantine 5) (upAt 0)).port 0).isQuarantine = true
    ∧ ((upAt 0).port 0).isUp = true ∧ ((upAt 0).port 0).ctl = [] ∧ ((upAt 0).port 0).tx = none
    ∧ ((put 0 (fun x => { x with ctl := [.hold, .resume] }) (upAt 0)).port 0).ctl = .hold :: [.resume]
    ∧ ((put 0 (fun x => { x with ctl := [.resume] }) (upAt 0)).port 0).ctl = .resume :: []
    ∧ (let l := emptyFrame .data 2 4 0x4510A3
       let s := (upAt 0).setBuf 0 { refs := 1, bytes := l }
       (wireBytes (s.buf 0).bytes).length = 8
        ∧ ∀ n ∈ [10, 9, 2, 1], ((put 0 (fun x => { x with tx := some { buf := 0, left := n } }) s).port 0).tx
            = some { buf := 0, left := n }) := by
  decide +kernel

theorem witness_SignalsMoveThePort :
    (upAt 0).running = true
    ∧ (let s := linked 0 .down (put 0 (fun x => { x with score := 191 }) (upAt 0))
       (s.port 0).link = .down ∧ (∀ b l, (s.port 0).rx ≠ .frame b l)
        ∧ (s.port 0).score < (s.port 0).cfg.quarantineThreshold)
    ∧ (let s := linked 0 .down (put 0 (fun x => { x with score := 192 }) (upAt 0))
       (s.port 0).link = .down ∧ (s.port 0).cfg.quarantineThreshold ≤ (s.port 0).score)
    ∧ ((upAt 0).port 0).link ≠ .down
    ∧ ((linked 0 .disabled (upAt 0)).port 0).link = .disabled
    ∧ ((linked 0 (.training 0) (upAt 0)).port 0).isTraining = true
    ∧ (let s := linked 0 (.quarantine 9) (upAt 0)
       (s.port 0).link = .quarantine 9 ∧ (s.port 0).rx.inside = none)
    ∧ (let s := linked 0 (.quarantine 9) (inside 0 [1] (upAt 0))
       (s.port 0).link = .quarantine 9 ∧ (s.port 0).rx.inside = some (some 0, [1])) := by
  refine ⟨rfl, ⟨rfl, ?_, by decide +kernel⟩, by decide +kernel, by decide +kernel, rfl, rfl, ⟨rfl, rfl⟩, rfl, rfl⟩
  exact fun b l h => nomatch h

theorem witness_SignalLossTakesUpDown :
    (upAt 0).running = true ∧ ((upAt 0).port 2).isUp = true ∧ ((upAt 0).port 2).rx.inside = none
    ∧ (let s := inside 2 [] (upAt 0)
       s.running = true ∧ (s.port 2).isUp = true ∧ (s.port 2).rx.inside = some (some 0, [])) :=
  ⟨rfl, rfl, rfl, rfl, rfl, rfl⟩

theorem witness_TrainingCountsValidSymbols :
    ((linked 1 (.training 62) (upAt 0)).port 1).link = .training 62 ∧ 62 + 1 < 64
    ∧ ((linked 1 (.training 63) (upAt 0)).port 1).link = .training 63 ∧ 64 ≤ 63 + 1
    ∧ decodeSymbol 0x23C ≠ .invalid ∧ decodeSymbol 0x0FF = .invalid := by
  decide +kernel

theorem witness_InvalidSymbolsLoseLock :
    (let s := linked 1 (.up 2 none) (upAt 0)
     (s.port 1).link = .up 2 none ∧ (s.port 1).rx.inside = none
      ∧ (s.port 1).score < (s.port 1).cfg.quarantineThreshold ∧ 2 + 1 < 4)
    ∧ (let s := linked 1 (.up 3 (some 7)) (upAt 0)
       (s.port 1).link = .up 3 (some 7) ∧ (s.port 1).rx.inside = none
        ∧ (s.port 1).score < (s.port 1).cfg.quarantineThreshold ∧ 4 ≤ 3 + 1)
    ∧ (let s := linked 1 (.up 2 none) (inside 1 [5] (upAt 0))
       s.running = true ∧ (s.port 1).link = .up 2 none ∧ (s.port 1).rx.inside = some (some 0, [5]) ∧ 2 + 1 < 4)
    ∧ (let s := linked 1 (.up 3 none) (inside 1 [5] (upAt 0))
       s.running = true ∧ (s.port 1).link = .up 3 none ∧ (s.port 1).rx.inside = some (some 0, [5]) ∧ 4 ≤ 3 + 1)
    ∧ (∀ n ∈ [190, 191],
        let s := put 1 (fun x => { x with score := n }) (inside 1 [5] (upAt 0))
        (scored (errorCounted (s.port 1) (some 0) .code .ignoring) s.notices 1 1 s.localTime s.cellTime).1.isUp
          = decide (n = 190))
    ∧ (let s := linked 1 (.quarantine 4) (inside 1 [5] (upAt 0))
       s.running = true ∧ (s.port 1).isQuarantine = true ∧ (s.port 1).rx.inside = some (some 0, [5]))
    ∧ (let s := linked 1 (.quarantine 4) (upAt 0)
       s.running = true ∧ (s.port 1).isQuarantine = true ∧ (s.port 1).rx.inside = none) := by
  exact ⟨⟨rfl, rfl, by decide +kernel, by decide⟩, ⟨rfl, rfl, by decide +kernel, by decide⟩, ⟨rfl, rfl, rfl, by decide⟩,
    ⟨rfl, rfl, rfl, by decide⟩, by decide +kernel, ⟨rfl, rfl, rfl⟩, rfl, rfl, rfl⟩

theorem witness_PartnerHoldStartsAndEnds :
    ((upAt 0).port 1).link = .up 0 none
    ∧ (let s := linked 1 (.up 3 (some 100)) (upAt 100)
       s.running = true ∧ (s.port 1).link = .up 3 (some 100) ∧ (s.localTime - 100).toNat < 2 ^ 31)
    ∧ (let s := linked 1 (.up 0 (some 101)) (upAt 100)
       s.running = true ∧ (s.port 1).link = .up 0 (some 101) ∧ 2 ^ 31 ≤ (s.localTime - 101).toNat) := by
  decide +kernel

theorem witness_SymbolsFollowThePortState :
    ((linked 1 .disabled (upAt 0)).port 1).link = .disabled ∧ ((linked 1 .down (upAt 0)).port 1).link = .down
    ∧ ((linked 1 (.training 62) (upAt 0)).port 1).link = .training 62 ∧ 62 + 1 < 64
    ∧ ((linked 1 (.quarantine 4) (upAt 0)).port 1).link = .quarantine 4 := by
  decide +kernel

theorem witness_SofAndBytesAreReceived :
    (let s := occupied 91 (upAt 0)
     s.running = true ∧ (s.port 0).rx.inside = none ∧ (s.port 0).isUp = true ∧ s.freeCount = 5)
    ∧ (let s := occupied 92 (upAt 0)
       s.running = true ∧ (s.port 0).rx.inside = none ∧ (s.port 0).isUp = true ∧ s.freeCount < 5)
    ∧ (let s := linked 0 (.quarantine 4) (upAt 0)
       s.running = true ∧ (s.port 0).rx.inside = none ∧ (s.port 0).isQuarantine = true)
    ∧ ((inside 0 [1, 2, 3, 4, 128] (upAt 0)).port 0).rx = .frame (some 0) [1, 2, 3, 4, 128]
    ∧ errorAt [1, 2, 3, 4, 128] (.data (headerCheck [1, 2, 3, 4, 128])) = none
    ∧ errorAt [] (.data 0xFF) = none
    ∧ ((put 0 (fun x => { x with rx := .frame none [] }) (upAt 0)).port 0).rx = .frame none []
    ∧ (∀ o ∈ [some (0 : BufId), none],
        let s := linked 0 (.quarantine 4) (put 0 (fun x => { x with rx := .frame o [] }) (occupied 1 (upAt 0)))
        s.running = true ∧ (s.port 0).isQuarantine = true ∧ (s.port 0).rx = .frame o []) := by
  exact ⟨⟨rfl, rfl, rfl, by decide +kernel⟩, ⟨rfl, rfl, rfl, by decide +kernel⟩, ⟨rfl, rfl, rfl⟩, rfl,
    by decide +kernel, by decide +kernel, rfl, fun o _ => ⟨rfl, rfl, rfl⟩⟩

theorem witness_ReceiveErrorsEndAFrame :
    (let s := inside 0 [1, 2, 3, 4, 5] (upAt 0)
     s.running = true ∧ (s.port 0).isUp = true ∧ (s.port 0).rx.inside = some (some 0, [1, 2, 3, 4, 5]))
    ∧ Symbol.eof ≠ .sof ∧ Symbol.eof ≠ .invalid ∧ errorAt [1, 2, 3, 4, 5] .eof = some .runt
    ∧ errorAt [1, 2, 3, 4, 5] (.data (headerCheck [1, 2, 3, 4, 5] + 1)) = some .headerCheck
    ∧ errorAt [1, 2, 3, 4, 129] (.data (headerCheck [1, 2, 3, 4, 129])) = some .length
    ∧ errorAt (emptyFrame .data 2 4 0x4510A3) (.data 0) = some .length
    ∧ errorAt ((emptyFrame .data 2 4 0x4510A3).take 7 ++ [0]) .eof = some .frameCheck
    ∧ (let s := linked 0 (.quarantine 4) (inside 0 [1] (upAt 0))
       s.running = true ∧ (s.port 0).isQuarantine = true ∧ (s.port 0).rx.inside = some (some 0, [1]))
    ∧ errorAt [1] .invalid = some .code ∧ errorAt [1] .idle = some .runt
    ∧ ((stripped 0 [1] (upAt 0)).port 0).rx.inside = some (none, [1])
    ∧ ((after (.receiveError 0 .sof) (linked 0 (.quarantine 4) (inside 0 [1] (upAt 0)))).port 0).rx = .frame none []
    ∧ ((after (.receiveError 0 .sof) (inside 0 [1] (upAt 0))).port 0).rx = .frame (some 0) []
    ∧ ((after (.receiveError 0 .sof) (inside 0 [1] (put 0 (fun x => { x with score := 190 }) (upAt 0)))).port 0).isUp
        = false := by
  decide +kernel

theorem witness_FramesAreDroppedAndCounted :
    (let l := emptyFrame .data 2 4 0x4510A3
     goodFrame l
      ∧ (let s := put 0 (fun x => { x with rx := .frame none l }) (upAt 0)
         s.running = true ∧ (s.port 0).isUp = true ∧ (s.port 0).rx = .frame none l)
      ∧ (let s := linked 0 (.quarantine 4) (inside 0 l (upAt 0))
         (s.port 0).isQuarantine = true ∧ (s.port 0).rx.inside = some (some 0, l))
      ∧ (let s := inside 0 l (upAt 0)
         s.receiving 0 0 l ∧ ¬ s.addressed (headerOf l) ∧ (headerOf l).hop ≠ 0
          ∧ lookupIn s.activeBank 0 (headerOf l) = .miss .drop)
      ∧ (let s := inside 0 l (ruled 63 (rule45 .drop none) (upAt 0))
         s.receiving 0 0 l ∧ ¬ s.addressed (headerOf l)
          ∧ lookupIn s.activeBank 0 (headerOf l) = .hit 63 (rule45 .drop none)))
    ∧ (let l := emptyFrame .data 2 0 0x4510A3
       let s := inside 0 l (upAt 0)
       s.receiving 0 0 l ∧ goodFrame l ∧ ¬ s.addressed (headerOf l) ∧ (headerOf l).hop = 0) := by
  decide +kernel

theorem witness_OwnRequestsAreCaptured :
    let l := emptyFrame .request 5 0 0xFF0042
    let s := inside 1 l (upAt 0)
    let queued := fun n => { s with agent := { s.agent with queue := List.replicate n { buf := 0, port := 0 } } }
    s.receiving 1 0 l ∧ goodFrame l ∧ s.addressed (headerOf l) ∧ s.addressed (headerOf (emptyFrame .request 5 7 0x030042))
      ∧ (s.port 1).cfg.accepts = true ∧ (queued 3).agent.queue.length < 4 ∧ 4 ≤ (queued 4).agent.queue.length
      ∧ (queued 4).receiving 1 0 l
      ∧ ((put 1 (fun x => { x with cfg := { x.cfg with accepts := false } }) s).port 1).cfg.accepts = false := by
  decide +kernel

theorem witness_FramesAreForwarded :
    let l := emptyFrame .data 2 1 0x4510A3
    (let s := inside 0 l { upAt 0 with banks := (upAt 0).banks.set 0 { clearedBank st with miss := .flood } }
     s.receiving 0 0 l ∧ goodFrame l ∧ ¬ s.addressed (headerOf l) ∧ (headerOf l).hop ≠ 0
      ∧ lookupIn s.activeBank 0 (headerOf l) = .miss .flood)
    ∧ (let e := rule45 (.forward 0xE (some 5) (some { value := 0x77, mask := 0xFF })) none
       let s := inside 0 l (ruled 0 e (upAt 0))
       s.receiving 0 0 l ∧ ¬ s.addressed (headerOf l) ∧ lookupIn s.activeBank 0 (headerOf l) = .hit 0 e
        ∧ (∃ q, s.egress 0 0xE q = true) ∧ ∀ q, s.egress 0 1 q = false) := by
  decide +kernel

theorem witness_TagConditionComparesMaskedBits :
    (rule45 .drop none).matchValue &&& ~~~(rule45 .drop none).matchMask = 0
    ∧ clearedRule.matchValue &&& ~~~clearedRule.matchMask = 0 ∧ clearedRule.matchMask = 0
    ∧ (let e := { clearedRule with matchValue := 0x450001, matchMask := 0xFFFFFF }
       e.matchValue &&& ~~~e.matchMask = 0 ∧ e.matchMask = 0xFFFFFF) := by
  decide +kernel

theorem witness_RewriteReplacesTheMaskedBits : (0x000500 : Tag) &&& ~~~(0x000F00 : Tag) = 0 := by decide

/-- A flow with a period of 1,000 µs, a tolerance of 100 µs and a loss limit of 3. -/
def flow12 : FlowEntry :=
  { cfg :=
      { period := 1000, tolerance := 100, lossLimit := 3, rate := 0, burst := 1, overAction := .drop
        notifyLate := true, notifyLost := true, notifyRecovered := true }
    state := .armed, missCount := 0, deadline := none, lastArrival := none, tokens := 1000, lastRefill := 100000
    passed := 0, policed := 0, early := 0, lateEvents := 0 }

/-- A flow that polices at 100 bytes per ms with a burst of 300 bytes. -/
def flow20 (tokens : Nat) (at_ : Instant) : FlowEntry :=
  { clearedFlow at_ with
    cfg := { clearedFlowConfig with rate := 100, burst := 300, overAction := .demote }
    state := .armed, tokens, lastRefill := at_ }

theorem witness_FrameEndObservesTheCadence :
    (clearedFlow 0).state = .unused ∧ flow12.state = .armed
    ∧ (let f := { flow12 with state := .onTime, lastArrival := some 100500 }
       f.state = .onTime ∧ f.lastArrival = some 100500)
    ∧ ({ flow12 with state := .late } : FlowEntry).state = .late
    ∧ ({ flow12 with state := .lost } : FlowEntry).state = .lost := by
  decide

theorem witness_PolicerRefillsTestsAndCharges :
    flow12.cfg.rate = 0 ∧ (clearedFlow 0).state = .unused
    ∧ (let f := flow20 126000 500000
       let tokens := min (f.tokens + ((500100 : Instant) - f.lastRefill).toNat * f.cfg.rate) (f.cfg.burst * 1000)
       f.cfg.rate ≠ 0 ∧ f.state ≠ .unused ∧ 136 * 1000 ≤ tokens ∧ tokens < 137 * 1000 ∧ f.cfg.overAction = .demote)
    ∧ (clearedFlowConfig.overAction = .drop) := by
  decide

theorem witness_BoundFlowsObserveAndPolice :
    let l := emptyFrame .data 2 4 0x4510A3
    let e := rule45 (.forward 0xE none none) (some 127)
    (let s := inside 0 l (ruled 0 e (upAt 0))
     s.receiving 0 0 l ∧ goodFrame l ∧ ¬ s.addressed (headerOf l) ∧ (headerOf l).hop ≠ 0
      ∧ lookupIn s.activeBank 0 (headerOf l) = .hit 0 e ∧ e.flow = some 127)
    ∧ (let s := inside 0 l (ruled 0 (rule45 .drop (some 7)) (upAt 0))
       s.receiving 0 0 l ∧ lookupIn s.activeBank 0 (headerOf l) = .hit 0 (rule45 .drop (some 7)))
    ∧ (police 0 8 (observe 0 (flow20 8000 0)).1).2 = .pass
    ∧ (police 0 8 (observe 0 (flow20 7999 0)).1).2 = .demote
    ∧ (police 0 8 (observe 0 { flow20 7999 0 with cfg := { (flow20 0 0).cfg with overAction := .drop } }).1).2 = .drop := by
  decide +kernel

/-- Flow 12 with a deadline, in the given state. -/
def withDeadline (state : FlowState) (limit missCount : Nat) (d now : Instant) : State :=
  (upAt now).setFlow 12
    { flow12 with cfg := { flow12.cfg with lossLimit := limit }, state, missCount, deadline := some d }

theorem witness_ExpiryOnTimeMakesLateOrLost :
    ∀ limit ∈ [1, 2, 15],
      let s := withDeadline .onTime limit 0 103000 103000
      s.running = true ∧ (s.flow 12).state = .onTime ∧ (s.flow 12).deadline = some 103000 ∧ s.passed 103000 = true
        ∧ (s.flow 12).cfg.lossLimit = limit := by
  decide +kernel

theorem witness_ExpiryLateCountsMissesToTheLimit :
    (∀ n ∈ [1, 2],
      let s := withDeadline .late 3 n 105000 105000
      s.running = true ∧ (s.flow 12).state = .late ∧ (s.flow 12).deadline = some 105000 ∧ s.passed 105000 = true
        ∧ (s.flow 12).missCount = n ∧ (s.flow 12).cfg.lossLimit = 3)
    ∧ ((withDeadline .lost 3 3 0 0).flow 12).state = .lost := by
  decide +kernel

theorem witness_FillUpFillsTheAllowance :
    (let s := (upAt 778774528).setFlow 60 (flow20 3500 4000000000)
     s.running = true ∧ (s.flow 60).state ≠ .unused ∧ (s.flow 60).cfg.rate ≠ 0
      ∧ s.passed ((s.flow 60).lastRefill + 1073741824) = true)
    ∧ (let s := (upAt 778774527).setFlow 60 (flow20 3500 4000000000)
       s.running = true ∧ s.passed ((s.flow 60).lastRefill + 1073741824) = false)
    ∧ ((upAt 0).flow 0).state = .unused ∧ ((withDeadline .late 3 1 0 0).flow 12).cfg.rate = 0 := by
  decide +kernel

theorem witness_LeaksAndQuarantineEnds :
    (let s := put 2 (fun x => { x with score := 38, warned := true, nextLeak := some 11000 }) (upAt 11000)
     s.running = true ∧ (s.port 2).nextLeak = some 11000 ∧ s.passed 11000 = true ∧ (s.port 2).warned = true)
    ∧ (let s := put 2 (fun x => { x with score := 1, nextLeak := some 11000 }) (upAt 11000)
       s.running = true ∧ (s.port 2).nextLeak = some 11000 ∧ (s.port 2).warned = false
        ∧ (s.port 2).score - 1 < (s.port 2).cfg.warnThreshold)
    ∧ (let s := linked 2 (.quarantine 1013000) (upAt 1013000)
       s.running = true ∧ (s.port 2).link = .quarantine 1013000 ∧ s.passed 1013000 = true
        ∧ 1 ≤ (s.port 2).cfg.quarantineThreshold) := by
  decide +kernel

theorem witness_HoldRepeatsAndAllocations :
    (let s := { upAt 60510 with pool := { initialPool with hold := .holding 60510 } }
     s.running = true ∧ s.pool.hold = .holding 60510 ∧ s.passed 60510 = true)
    ∧ (occupied 92 (upAt 0)).freeCount < 5 ∧ ((occupied 95 (upAt 0)).alloc 1).isSome = true
    ∧ (occupied 96 (upAt 0)).freeCount < 1 := by
  decide +kernel

/-- An entry of an egress queue. -/
def entry (buf : BufId) (prio : Prio) (time : Instant) (origin : Origin) : QueueEntry := { buf, prio, time, origin }

theorem witness_SelectionsAgeThenSend :
    (let s := put 1 (fun x => { x with queue := [entry 0 5 10000 .forwarded] }) (upAt 12600)
     s.running = true ∧ (s.port 1).isUp = true ∧ (s.port 1).isHeld = false ∧ (s.port 1).tx = none
      ∧ (s.port 1).queue ≠ [])
    ∧ (let s := put 1 (fun x => { x with tx := some { buf := 1, left := 0 } }) (upAt 12602)
       s.running = true ∧ (s.port 1).tx = some { buf := 1, left := 0 } ∧ (∀ e ∈ (s.port 1).queue, e.buf ≠ 1)
        ∧ (s.port 1).queue = [])
    ∧ (let s := put 1 (fun x => { x with tx := some { buf := 1, left := 0 }, queue := [entry 0 2 9000 .forwarded] })
        (upAt 12602)
       (s.port 1).tx = some { buf := 1, left := 0 } ∧ (∀ e ∈ (s.port 1).queue, e.buf ≠ 1)
        ∧ (s.port 1).isUp = true ∧ (s.port 1).isHeld = false ∧ (s.port 1).queue ≠ []) := by
  decide +kernel

theorem witness_EntriesJoinBehindTheirLevel :
    [entry 0 6 0 .forwarded, entry 1 6 1 .reply, entry 2 0 0 .notice].Pairwise fun a b => b.prio ≤ a.prio := by
  decide

theorem witness_LeaseAndActivationTimers :
    (let s := { upAt 40000000 with ctrl := .editing (key 1) 30 40000000 }
     s.running = true ∧ s.ctrl = .editing (key 1) 30 40000000 ∧ s.passed 40000000 = true)
    ∧ (∀ n ∈ [15000000, 14999999],
        let a : Instant := BitVec.ofNat 32 n
        let s := { upAt 15000000 with ctrl := .scheduled (key 1) a }
        s.running = true ∧ s.ctrl = .scheduled (key 1) a
          ∧ ((a - s.cellTime).toNat = 0 ∨ 2 ^ 31 ≤ (a - s.cellTime).toNat))
    ∧ (let s := { upAt 15000000 with ctrl := .scheduled (key 1) 15000001 }
       s.running = true ∧ s.ctrl = .scheduled (key 1) 15000001 ∧ 1 ≤ ((15000001 : Instant) - s.cellTime).toNat
        ∧ ((15000001 : Instant) - s.cellTime).toNat < 2 ^ 31) := by
  decide +kernel

theorem witness_MirrorStepsCopyTheActiveBank :
    ∀ k ∈ [(0 : Fin 65), 63, 64],
      let s := { upAt (15000001 + BitVec.ofNat 32 k.val) with ctrl := .mirroring k 15000000 }
      s.running = true ∧ s.ctrl = .mirroring k 15000000
        ∧ s.passed (15000000 + BitVec.ofNat 32 (k.val + 1)) = true := by
  decide +kernel

theorem witness_AgentTimersRunOut :
    let s := { upAt 10 with agent := { initialAgent with busyUntil := some 10 } }
    s.running = true ∧ s.agent.busyUntil = some 10 ∧ s.passed 10 = true := by
  decide +kernel

/-- A request whose payload holds only a code and half a number. -/
def askingShort (s : State) : State :=
  { s.setBuf 0 { refs := 1, bytes := [0x6F, 3, 0, 0x42, 2, 0, 1, 0, 0, 0] } with
    agent := { s.agent with queue := [{ buf := 0, port := 1 }] } }

theorem witness_ShortRequestsAndRetries :
    (let r := takenOf { buf := 0, port := 1 } [0x6F, 3, 0, 0x42, 2, 0, 1, 0, 0, 0]
     (askingShort (upAt 0)).headReady r ∧ r.payload.length < 3)
    ∧ (let s := asking 1 0x01 [] (upAt 0)
       let s := { s with agent := { s.agent with table := [entryOf 1 17 [1, 0, 17, 0] 0] } }
       s.headReady (taken 1 0x01 []) ∧ 3 ≤ (taken 1 0x01 []).payload.length
        ∧ s.requester (taken 1 0x01 []).key = some (entryOf 1 17 [1, 0, 17, 0] 0)
        ∧ (entryOf 1 17 [1, 0, 17, 0] 0).seq = (taken 1 0x01 []).seq) := by
  decide +kernel

theorem witness_UnknownCodesAndWrongLengths :
    (asking 1 0x04 [] (upAt 0)).carries (taken 1 0x04 []) ∧ (taken 1 0x04 []).code = 0x04
    ∧ (asking 1 0x7E [1] (upAt 0)).carries (taken 1 0x7E [1]) ∧ (taken 1 0x7E [1]).code = 0x7E
    ∧ (asking 1 0x03 [0, 0, 0] (upAt 0)).carries (taken 1 0x03 [0, 0, 0]) ∧ (taken 1 0x03 [0, 0, 0]).code = 3
    ∧ (taken 1 0x03 [0, 0, 0]).args.length ≠ 4
    ∧ (asking 1 0x7F [] (upAt 0)).carries (taken 1 0x7F []) ∧ (taken 1 0x7F []).args.length ≠ 1 :=
  ⟨(asked_up rfl).1.1, by decide, (asked_up rfl).1.1, by decide, (asked_up rfl).1.1, by decide, by decide,
    (asked_up rfl).1.1, by decide⟩

theorem witness_IdentifyAnswersTheGateway : (asking 1 0x01 [] (upAt 0)).carriesCommand (taken 1 0x01 []) 0x01 0 :=
  (asked_up rfl).1

theorem witness_PortAndPoolCounters :
    ∀ a ∈ [[(0 : Byte), 0, 0, 0], [3, 1, 0, 0], [3, 2, 0, 0], [3, 0, 1, 0], [3, 0, 0, 1], [0x10, 0, 0, 0], [0x10, 1, 0, 0],
        [0x10, 2, 0, 0], [0x10, 1, 0, 1], [4, 0, 0, 0], [0x0F, 0, 0, 0], [0x11, 0, 0, 0], [0x1F, 0, 0, 0],
        [0x21, 0, 0, 0], [0x2F, 0, 0, 0], [0x31, 0, 0, 0], [0xFF, 0, 0, 0]],
      (asking 1 0x02 a (upAt 0)).carriesCommand (taken 1 0x02 a) 0x02 4 ∧ (taken 1 0x02 a).args = a := by
  intro a h
  have hn : a.length = 4 := by revert a; decide
  exact ⟨(asked_up hn).1, (asked_up hn (now := 0)).2.1⟩

theorem witness_AgentAndHitCounters :
    ∀ a ∈ [[(0x20 : Byte), 0, 0, 0], [0x20, 1, 0, 0], [0x20, 2, 0, 0], [0x30, 0, 48, 16], [0x30, 1, 63, 1],
        [0x30, 0, 49, 16], [0x30, 0, 0, 17], [0x30, 0, 0, 0], [0x30, 2, 0, 1]],
      (asking 1 0x02 a (upAt 0)).carriesCommand (taken 1 0x02 a) 0x02 4 ∧ (taken 1 0x02 a).args = a := by
  intro a h
  have hn : a.length = 4 := by revert a; decide
  exact ⟨(asked_up hn).1, (asked_up hn (now := 0)).2.1⟩

theorem witness_RulesAreRead :
    ∀ a ∈ [[(0 : Byte), 60, 4], [1, 63, 1], [2, 0, 1], [0, 62, 4], [1, 0, 5], [1, 0, 0]],
      ∀ c ∈ [Controller.free, .editing (key 1) 30 9, .mirroring 0 0],
        (asking 1 0x14 a { upAt 0 with ctrl := c }).carriesCommand (taken 1 0x14 a) 0x14 3
          ∧ (taken 1 0x14 a).args = a ∧ (taken 1 0x14 a).key = key 1 := by
  intro a h c _
  have hn : a.length = 3 := by revert a; decide
  exact asked_with c hn

theorem witness_FlowsAndPortsAreRead :
    (∀ a ∈ [[(0 : Byte), 0], [127, 1], [127, 2], [128, 0], [255, 1]],
      (asking 1 0x21 a (upAt 0)).carriesCommand (taken 1 0x21 a) 0x21 2 ∧ (taken 1 0x21 a).args = a)
    ∧ ∀ a ∈ [[(0 : Byte)], [3], [4]],
      (asking 1 0x31 a (upAt 0)).carriesCommand (taken 1 0x31 a) 0x31 1 ∧ (taken 1 0x31 a).args = a := by
  refine ⟨fun a h => ?_, fun a h => ?_⟩
  · have hn : a.length = 2 := by revert a; decide
    exact ⟨(asked_up hn).1, (asked_up hn (now := 0)).2.1⟩
  · have hn : a.length = 1 := by revert a; decide
    exact ⟨(asked_up hn).1, (asked_up hn (now := 0)).2.1⟩

theorem witness_OpenEditGrantsTheLease :
    ∀ a ∈ [[(0 : Byte), 0], [0, 1], [2, 0x58], [2, 0x59]],
      ∀ c ∈ [Controller.free, .editing (key 1) 5 9, .editing (key 2) 5 9, .scheduled (key 1) 9, .scheduled (key 2) 9,
          .mirroring 64 9],
        (asking 1 0x10 a { upAt 0 with ctrl := c }).carriesCommand (taken 1 0x10 a) 0x10 2
          ∧ (taken 1 0x10 a).key = key 1 ∧ key 2 ≠ key 1
          ∧ (halfAt (taken 1 0x10 a).args 0).toNat ∈ [0, 1, 600, 601] := by
  intro a h c _
  have hn : a.length = 2 := by revert a; decide
  refine ⟨(asked_with c hn).1, (asked_up hn (now := 0)).2.2, by decide, ?_⟩
  rw [(asked_up hn (now := 0)).2.1]
  revert a; decide

theorem witness_EditCommandsNeedTheLease :
    ∀ x ∈ [((0x11 : Byte), 19), (0x12, 2), (0x13, 1), (0x15, 5), (0x16, 0)],
      ∀ c ∈ [Controller.free, .editing (key 2) 5 9, .scheduled (key 1) 9, .scheduled (key 2) 9, .mirroring 0 9],
        let a := List.replicate x.2 (1 : Byte)
        (asking 1 x.1 a { upAt 0 with ctrl := c }).carriesCommand (taken 1 x.1 a) x.1 x.2
          ∧ (taken 1 x.1 a).key = key 1 ∧ key 2 ≠ key 1 := by
  intro x h c _
  have hn : x.2 ≤ 125 := by revert x; decide
  exact ⟨(asked_with c List.length_replicate hn).1, (asked_with c List.length_replicate hn (now := 0)).2.2, by decide⟩

/-- A rule image: FORWARD to P1, ingress P0, kind DATA, priorities 0 to `hi`. -/
def image (hi : Prio) : RuleImage :=
  { valid := true, dropAction := false, hasPrio := false, hasRewrite := false, hasFlow := false, reserved0 := 0
    matchValue := 0x0000FF, matchMask := 0x00FF00, ingress := 1, forward := 2, kinds := 1, reserved8 := 0, lo := 0, hi
    reserved9 := 0, newPrio := 0, reserved10 := 0, rwValue := 0, rwMask := 0, flowIx := 0 }

/-- The holder's request of an edit command. -/
def editing (code : Byte) (args : List Byte) (now : Instant) (d : Nat) : State :=
  asking 1 code args { upAt now with ctrl := .editing (key 1) d 31000000 }

theorem witness_EditsWriteTheShadow :
    (∀ d ∈ [1, 600], 1 ≤ d ∧ d ≤ 600 ∧ (editing 0x13 [1] 0 d).ctrl = .editing (taken 1 0x13 [1]).key d 31000000)
    ∧ (∀ i ∈ [(0 : Byte), 63, 64],
        let a := i :: ruleImageBytes (image 7)
        (editing 0x11 a 0 30).carriesCommand (taken 1 0x11 a) 0x11 19 ∧ (taken 1 0x11 a).args = a)
    ∧ (let m := image 7
       ruleImageOf (ruleImageBytes m) = m ∧ m.valid = true ∧ ({ m with valid := false } : RuleImage).valid = false
        ∧ m.ingress ≠ 0 ∧ m.kinds ≠ 0 ∧ m.lo.toNat ≤ m.hi.toNat ∧ (m.dropAction = false → m.forward ≠ 0)
        ∧ (m.dropAction = true → m.hasPrio = false ∧ m.hasRewrite = false ∧ m.forward = 0)
        ∧ (m.hasRewrite = true → m.rwMask ≠ 0) ∧ (m.hasRewrite = false → m.rwValue = 0 ∧ m.rwMask = 0)
        ∧ (m.hasFlow = true → m.flowIx.toNat < 128) ∧ (m.hasFlow = false → m.flowIx = 0)
        ∧ (m.hasPrio = false → m.newPrio = 0)
        ∧ m.reserved0 = 0 ∧ m.reserved8 = 0 ∧ m.reserved9 = 0 ∧ m.reserved10 = 0)
    ∧ ¬ (({ image 2 with lo := 6 } : RuleImage).lo.toNat ≤ ({ image 2 with lo := 6 } : RuleImage).hi.toNat)
    ∧ (∀ a ∈ [[(0 : Byte), 64], [63, 1], [0, 0], [60, 8], [64, 1]],
        (editing 0x12 a 0 30).carriesCommand (taken 1 0x12 a) 0x12 2 ∧ (taken 1 0x12 a).args = a)
    ∧ (∀ a ∈ [[(0 : Byte)], [1], [2]],
        (editing 0x13 a 0 30).carriesCommand (taken 1 0x13 a) 0x13 1 ∧ (taken 1 0x13 a).args = a) := by
  refine ⟨by decide, fun i _ => ⟨(asked_with _ (n := 19) rfl).1, (asked_with .free (n := 19) rfl (now := 0)).2.1⟩, by decide,
    by decide, fun a h => ?_, fun a h => ?_⟩
  · have hn : a.length = 2 := by revert a; decide
    exact ⟨(asked_with _ hn).1, (asked_up hn (now := 0)).2.1⟩
  · have hn : a.length = 1 := by revert a; decide
    exact ⟨(asked_with _ hn).1, (asked_up hn (now := 0)).2.1⟩

theorem witness_CommitsSwapOrSchedule :
    (∀ a ∈ [[(0 : Byte), 9, 9, 9, 9], [2, 0, 0, 0, 0]],
      (editing 0x15 a 0 30).carriesCommand (taken 1 0x15 a) 0x15 5 ∧ (taken 1 0x15 a).args = a)
    ∧ (∀ n ∈ [500, 499, 501, 60000500, 60000501, 2147484147, 2147484148],
        let a : Instant := BitVec.ofNat 32 n
        let args := (1 : Byte) :: be32 a
        (editing 0x15 args 500 30).carriesCommand (taken 1 0x15 args) 0x15 5
          ∧ (taken 1 0x15 args).args = args ∧ byteAt args 0 = 1 ∧ wordAt args 1 = a) := by
  refine ⟨fun a h => ?_, fun n h =>
    ⟨(asked_with _ (n := 5) rfl).1, (asked_with .free (n := 5) rfl (now := 0)).2.1, rfl, ?_⟩⟩
  · have hn : a.length = 5 := by revert a; decide
    exact ⟨(asked_with _ hn).1, (asked_up hn (now := 0)).2.1⟩
  · revert n; decide

theorem witness_AbandonMirrorsWithoutASwap :
    (∀ c ∈ [Controller.editing (taken 1 0x16 []).key 30 9, .scheduled (taken 1 0x16 []).key 9],
      (asking 1 0x16 [] { upAt 0 with ctrl := c }).carriesCommand (taken 1 0x16 []) 0x16 0) :=
  fun c _ => (asked_with c rfl).1

theorem witness_AdjustTimeStepsTheOffset :
    ∀ n ∈ [0x80000000, 0x80000001, 0, 1, 0x7FFFFFFF], ∀ m ∈ [500, 499, 501],
      let a : BitVec 32 := BitVec.ofNat 32 n
      let t : Instant := BitVec.ofNat 32 m + a
      let s := asking 1 0x03 (be32 a) { upAt 500 with ctrl := .scheduled (key 2) t }
      let ahead := (t - ({ s with offset := s.offset + a } : State).cellTime).toNat
      s.carriesCommand (taken 1 0x03 (be32 a)) 0x03 4 ∧ (taken 1 0x03 (be32 a)).args = be32 a ∧ wordAt (be32 a) 0 = a
        ∧ (m = 501 → 1 ≤ ahead ∧ ahead < 2 ^ 31) ∧ (m = 500 → ahead = 0) ∧ (m = 499 → 2 ^ 31 ≤ ahead) := by
  intro n h m h'
  refine ⟨(asked_with _ (n := 4) rfl).1, (asked_with .free (n := 4) rfl (now := 0)).2.1, ?_⟩
  revert n m; decide +kernel

/-- A flow image with the given period and tolerance. -/
def flowArgs (i initial : Byte) (period tolerance : BitVec 32) : List Byte :=
  [i, initial] ++ flowImageBytes
    { period, tolerance, lossLimit := 15, rate := 0xFFFF, burst := 1, overAction := 1, notify := 7 }

theorem witness_WriteFlowSetsTheEntry :
    (∀ a ∈ [flowArgs 127 0 0 0, flowArgs 0 1 100 50, flowArgs 0 1 2000000 1000000, flowArgs 0 1 99 0, flowArgs 0 2 100 0,
        flowArgs 128 1 100 0],
      (asking 1 0x20 a (upAt 0)).carriesCommand (taken 1 0x20 a) 0x20 17 ∧ (taken 1 0x20 a).args = a)
    ∧ (let m := flowImageOf ((flowArgs 0 1 100 50).drop 2)
       100 ≤ m.period.toNat ∧ m.tolerance.toNat ≤ m.period.toNat / 2 ∧ m.lossLimit.toNat ≤ 15 ∧ m.burst ≠ 0
        ∧ m.overAction.toNat ≤ 1 ∧ m.notify.toNat < 8) := by
  refine ⟨fun a h => ?_, by decide⟩
  have hn : a.length = 17 := by revert a; decide
  exact ⟨(asked_up hn).1, (asked_up hn (now := 0)).2.1⟩

/-- A SET_PORT request's arguments: flags, and warn and quarantine thresholds. -/
def portArgs (p flags : Byte) (warn quarantine : Half) : List Byte :=
  p :: portImageBytes
    { flags, queueLimit := 48, ageLimit := 0, warnThreshold := warn, quarantineThreshold := quarantine
      leakInterval := 1, holdLimit := 255, quarantineHold := 1 }

theorem witness_SetPortStoresAndMoves :
    (∀ a ∈ [portArgs 0 3 1 2, portArgs 3 2 1022 1023, portArgs 0 1 1 2, portArgs 3 0 1 2, portArgs 1 4 1 2,
        portArgs 1 3 100 100, portArgs 4 3 1 2],
      (asking 0 0x30 a (upAt 0)).carriesCommand (taken 0 0x30 a) 0x30 11 ∧ (taken 0 0x30 a).args = a)
    ∧ (∀ p, (0 : BufId) ∉ ((upAt 0).port p).held)
    ∧ (upAt 0).lockedOut 0 0 (portConfigOf (portImageOf ((portArgs 0 3 1 2).drop 1))) = false
    ∧ (upAt 0).lockedOut 0 0 (portConfigOf (portImageOf ((portArgs 0 1 1 2).drop 1))) = true
    ∧ portImageOk (portImageOf ((portArgs 3 2 1022 1023).drop 1)) = true
    ∧ portImageOk (portImageOf ((portArgs 1 3 100 100).drop 1)) = false := by
  refine ⟨fun a h => ?_, by decide +kernel, by decide +kernel, by decide +kernel, by decide, by decide⟩
  have hn : a.length = 11 := by revert a; decide
  exact ⟨(asked_up hn).1, (asked_up hn (now := 0)).2.1⟩

theorem witness_ReleasePortAndSetNotices :
    (let s := asking 0 0x32 [2] (linked 2 (.quarantine 9) (upAt 0))
     s.carriesCommand (taken 0 0x32 [2]) 0x32 1 ∧ (0 : BufId) ∉ (s.port 2).held
      ∧ 1 ≤ (s.port 2).cfg.quarantineThreshold ∧ (s.port 2).isQuarantine = true ∧ (s.port 3).isQuarantine = false)
    ∧ (asking 0 0x32 [4] (upAt 0)).carriesCommand (taken 0 0x32 [4]) 0x32 1 ∧ (taken 0 0x32 [4]).args = [4]
    ∧ (∀ a ∈ [[(3 : Byte), 1, 2, 3, 7, 0x0F, 0xFF], [4, 0, 0, 0, 0, 0, 0], [0, 0, 0, 0, 8, 0, 0], [0, 0, 0, 0, 0, 0x10, 0]],
        (asking 0 0x40 a (upAt 0)).carriesCommand (taken 0 0x40 a) 0x40 7 ∧ (taken 0 0x40 a).args = a) := by
  refine ⟨⟨(asked rfl (by decide) rfl rfl rfl wf_reset).1, by decide +kernel, by decide, by decide, by decide⟩,
    (asked_up rfl).1, (asked_up rfl (now := 0)).2.1, fun a h => ?_⟩
  have hn : a.length = 7 := by revert a; decide
  exact ⟨(asked_up hn).1, (asked_up hn (now := 0)).2.1⟩

theorem witness_TrafficResetClearsWhatIsInFlight :
    ∀ a : Byte, (asking 0 0x7F [a] (upAt 0)).carriesCommand (taken 0 0x7F [a]) 0x7F 1 ∧ (taken 0 0x7F [a]).args = [a]
      ∧ ∀ p, (0 : BufId) ∉ flushedRefs ((asking 0 0x7F [a] (upAt 0)).port p) :=
  fun a => ⟨(asked_up (n := 1) rfl).1, (asked_up (n := 1) rfl (now := 0)).2.1, by
    show ∀ p, (0 : BufId) ∉ flushedRefs ((upAt 0).port p)
    decide⟩

theorem witness_FullResetRestoresPowerOn :
    (asking 0 0x7F [1] (upAt 0)).carriesCommand (taken 0 0x7F [1]) 0x7F 1 ∧ byteAt (taken 0 0x7F [1]).args 0 = 1
    ∧ (let l := emptyFrame .data 2 4 0x4510A3
       goodFrame l ∧ ∀ n ∈ [91, 92],
        let s := stripped 0 l (occupied n (upAt 0))
        s.running = true ∧ (s.port 0).isUp = true ∧ (s.port 0).rx = .stripped l ∧ s.freeCount = 96 - n) :=
  ⟨(asked_up rfl).1, by decide, by decide +kernel⟩

/-- A notice queue of `n` records. -/
def noticed (n : Nat) (s : State) : State :=
  { s with notices := { s.notices with
    queue := List.replicate n { seq := 0, kind := .portUp, time := 0, subject := 0, detail := 0 } } }

theorem witness_NoticesAreQueuedAndSent :
    (noticed 31 (upAt 0)).notices.queue.length < 32 ∧ 32 ≤ (noticed 32 (upAt 0)).notices.queue.length
    ∧ (upAt 0).notices.cfg.mask.getLsbD ((noticeCode .restarted).toNat - 1) = true
    ∧ (0x7FF : BitVec 12).getLsbD ((noticeCode .restarted).toNat - 1) = false
    ∧ (let s := occupied 95 (noticed 1 (upAt 0))
       s.running = true ∧ s.notices.waiting = none ∧ s.notices.queue ≠ [] ∧ (s.port s.notices.cfg.dest).isUp = true
        ∧ (s.port s.notices.cfg.dest).queue.length < (s.port s.notices.cfg.dest).cfg.queueLimit ∧ s.freeCount = 1)
    ∧ (occupied 96 (noticed 1 (upAt 0))).freeCount = 0
    ∧ (upAt 0).notices.queue = [] := by
  decide +kernel

/-- A state that meets every invariant. -/
def sound : State := State.powerOn st 0xF

theorem sound_flow (i : FlowIx) : sound.flow i = clearedFlow 0 := by
  revert i; decide +kernel

theorem sound_rx (p : Port) : (sound.port p).rx = .idle := by revert p; decide +kernel

theorem sound_steps : step sound = .next sound.tick := by
  show sound.idle = _
  unfold State.idle
  rw [show sound.due = none by decide +kernel]

theorem witness_EveryStepKeepsTheFlows : sound.flowsInv ∧ step sound = .next sound.tick := by
  refine ⟨fun i => ?_, sound_steps⟩
  rw [sound_flow]; exact ⟨by unfold FlowConfig.wf; decide, ⟨rfl, rfl⟩, by decide⟩

theorem witness_EveryStepKeepsThePorts : sound.portsInv ∧ sound.reachable ∧ step sound = .next sound.tick := by
  refine ⟨fun p => ?_, ⟨0, by decide +kernel⟩, sound_steps⟩
  revert p; unfold PortConfig.wf PortRec.queueWf PortRec.scoreWf PortRec.enableWf; decide +kernel

theorem witness_EveryStepKeepsTheBanksAndRequesters :
    sound.banksInv ∧ sound.agentInv ∧ step sound = .next sound.tick := by
  refine ⟨by show sound.shadowBank = sound.activeBank; decide +kernel, ⟨by decide +kernel, by decide +kernel,
    by decide +kernel, ?_⟩, sound_steps⟩
  intro k hk; cases hk

theorem witness_EveryStepKeepsTheReferencesAndNotices :
    sound.refsInv ∧ sound.noticesInv ∧ step sound = .next sound.tick := by
  refine ⟨⟨by decide +kernel, by decide +kernel, ⟨?_, ?_⟩, ?_⟩, ⟨by decide +kernel, by decide +kernel⟩, sound_steps⟩
  · intro p b l h; rw [sound_rx] at h; cases h
  · intro r h; cases h
  · intro p h; rw [sound_rx] at h; cases h

theorem witness_EncodingsRoundTrip :
    encodeSymbol (.data 0xFF) = some 0x1FF ∧ decodeSymbol 0x296 ≠ .invalid
    ∧ ([] : List Byte).length ≤ 128 ∧ (List.replicate 128 (7 : Byte)).length ≤ 128
    ∧ (0x80 : Byte) = BitVec.ofNat 8 (List.replicate 128 (7 : Byte)).length
    ∧ (List.replicate 18 (0 : Byte)).length = 18
    ∧ ruleImageOk (image 7) = true ∧ (image 7).valid = true
    ∧ clearedFlowConfig.wf ∧ (defaultPortConfig st 0).wf := by
  unfold FlowConfig.wf PortConfig.wf; decide +kernel

/-! ### Form: well-formedness, words and encodings -/

theorem test_wellFormed_refuses_symbols_that_end_no_frame :
    (Instr.receiveError 0 .hold).wellFormed = false ∧ (Instr.receiveError 0 .resume).wellFormed = false
      ∧ (Instr.receiveError 0 .invalid).wellFormed = false ∧ (Instr.receiveError 3 .eof).wellFormed = true := by
  decide

theorem test_no_word_spells_a_command :
    decodeTableWord 8 0x6F = none ∧ State.reset.withFetchWord 8 0x6F = State.reset := ⟨rfl, rfl⟩

-- R198's table.
theorem test_code_groups :
    decodeSymbol 0x1A7 = .data 0xA7 ∧ decodeSymbol 0x23C = .idle ∧ decodeSymbol 0x25A = .align
      ∧ decodeSymbol 0x2F1 = .sof ∧ decodeSymbol 0x2E2 = .eof ∧ decodeSymbol 0x2A5 = .hold
      ∧ decodeSymbol 0x296 = .resume ∧ decodeSymbol 0x200 = .invalid ∧ decodeSymbol 0x03C = .invalid
      ∧ decodeSymbol 0x33C = .invalid := by
  decide

-- R199: a REQUEST at priority 5 with hop 7 carries 0x6F; the two checks computed by long division by hand.
theorem test_request_header_and_checks :
    frameBytes { kind := .request, prio := 5, hop := 7, tag := 0x030042, payloadLength := 3 } [0x01, 0x00, 0x11]
      = [0x6F, 0x03, 0x00, 0x42, 0x03, 0x8B, 0x01, 0x00, 0x11, 0x0D, 0x44] := by
  decide +kernel

-- "Tag rewrite" (01).
theorem test_rewrite_example :
    rewriteTag (some { value := 0x000500, mask := 0x000F00 }) 0x3A0712 = 0x3A0512
      ∧ rewriteTag (some { value := 0x000500, mask := 0x000F00 }) 0x300512 = 0x300512 := by
  decide

/-- The bank of "A small bank and five frames" (01). -/
def smallBank : Bank :=
  { entries := ((((Vector.replicate 64 clearedRule).set 0
      { valid := true, matchValue := 0x120000, matchMask := 0xFF0000, ingress := 1, kinds := 1, lo := 4, hi := 7
        action := .forward 6 none none, flow := some 5 }).set 1
      { valid := true, matchValue := 0x120000, matchMask := 0xFF0000, ingress := 15, kinds := 1, lo := 0, hi := 7
        action := .forward 8 (some 2) none, flow := none }).set 2
      { valid := true, matchValue := 0x12AB00, matchMask := 0xFFFF00, ingress := 1, kinds := 1, lo := 0, hi := 7
        action := .drop, flow := none }).set 3
      { valid := true, matchValue := 0x300000, matchMask := 0xF00000, ingress := 4, kinds := 1, lo := 0, hi := 7
        action := .forward 1 none (some { value := 0x000500, mask := 0x000F00 }), flow := none }
    miss := .drop }

/-- A frame of that example. -/
def frameOf (kind : FrameKind) (prio : Prio) (tag : Tag) : Header := { kind, prio, hop := 3, tag, payloadLength := 0 }

theorem test_five_frames :
    winningPos smallBank 0 (frameOf .data 6 0x12AB40) = some 0
      ∧ winningPos smallBank 0 (frameOf .data 1 0x12AB40) = some 1
      ∧ winningPos smallBank 2 (frameOf .data 3 0x3A0712) = some 3
      ∧ winningPos smallBank 1 (frameOf .reply 7 0x051234) = none
      ∧ lookupIn smallBank 1 (frameOf .reply 7 0x051234) = .miss .drop
      ∧ winningPos smallBank 3 (frameOf .data 0 0x120001) = some 1 := by
  decide +kernel

-- "A burst under DEMOTE" (05): frame by frame, the allowance left, PASSED, POLICED and the verdict.
theorem test_burst_under_demote :
    let f1 := police 500200 136 (flow20 300000 500000)
    let f2 := police 500300 136 f1.1
    let f3 := police 500400 136 f2.1
    let f4 := police 500500 40 f3.1
    let f5 := police 501900 136 f4.1
    (f1.1.tokens, f2.1.tokens, f3.1.tokens, f4.1.tokens, f5.1.tokens) = (164000, 38000, 48000, 18000, 22000)
      ∧ (f2.2, f3.2, f4.2) = (.pass, .demote, .pass) ∧ (f5.1.passed, f5.1.policed) = (5, 1) := by
  decide

-- "A stream that slips, is lost and recovers" (04).
theorem test_stream_arrives :
    let f1 := (observe 100500 flow12).1
    let f2 := (observe 101480 f1).1
    let f3 := (observe 101900 f2).1
    f1.deadline = some 101600 ∧ f2.deadline = some 102580 ∧ f2.early = 0 ∧ f3.deadline = some 103000 ∧ f3.early = 1 := by
  decide

theorem test_stream_slips_and_recovers :
    let f := { flow12 with state := .onTime, deadline := some 103000, lastArrival := some 101900 }
    let e1 := expire 103000 f
    let e2 := expire 104000 e1.1
    let e3 := expire 105000 e2.1
    let g := observe 107250 e3.1
    e1 = ({ f with state := .late, missCount := 1, deadline := some 104000, lateEvents := 1 }, some (.flowLate, 1))
      ∧ e2 = ({ e1.1 with missCount := 2, deadline := some 105000 }, none)
      ∧ e3 = ({ e2.1 with state := .lost, missCount := 3, deadline := none }, some (.flowLost, 3))
      ∧ g = ({ e3.1 with state := .onTime, missCount := 0, deadline := some 108350, lastArrival := some 107250 },
        some (.flowRecovered, 3)) := by
  decide

/-! ### The lines and lanes -/

-- R138, R142, R204: the straps latched, P0's and P2's lanes with a signal.
theorem test_powerOn_latches_straps_and_signals :
    let t := after (.powerOn { station := 5, missFlood := true, mgmtP0Only := true } 5) State.reset
    (t.port 0).link = .training 0 ∧ (t.port 1).link = .down ∧ (t.port 0).cfg.accepts = true
      ∧ (t.port 1).cfg.accepts = false ∧ t.activeBank.miss = .flood ∧ t.straps.station = 5 := by
  decide +kernel

-- R204: RESET held, FAULT is deasserted and local time 0.
theorem test_resetHeld_stops_the_part :
    let t := after .resetHeld (linked 0 (.quarantine 9) (upAt 77))
    t.running = false ∧ t.localTime = 0 ∧ t.faultN = true ∧ t.txSymbol 0 = none
      ∧ (linked 0 (.quarantine 9) (upAt 77)).faultN = false := by
  decide +kernel

/-- P2 of "A port that degrades into quarantine" (07). -/
def weak (score : Nat) (warned : Bool) (nextLeak : Option Instant) (now : Instant) : State :=
  put 2 (fun x => { x with
    score, warned, nextLeak
    cfg := { x.cfg with warnThreshold := 16, quarantineThreshold := 40 } }) (upAt now)

-- "If the signal returned at 605,000" (07).
theorem test_signalDetected_requarantines :
    let t := after (.signalDetected 2) (linked 2 .down (weak 40 true (some 610000) 605000))
    (t.port 2).link = .quarantine 1605000 ∧ (t.port 2).nextLeak = none
      ∧ t.notices.queue.map (fun r => (r.kind, r.subject, r.detail)) = [(.portQuarantined, 2, 40)] := by
  decide +kernel

-- "Had the partner's signal been lost at 600,000" (07).
theorem test_signalLost_in_quarantine_keeps_the_score :
    let t := after (.signalLost 2) (linked 2 (.quarantine 1013000) (weak 40 true none 600000))
    (t.port 2).link = .down ∧ (t.port 2).score = 40 ∧ (t.port 2).nextLeak = some 610000 ∧ t.faultN = true := by
  decide +kernel

-- "A multicast frame through the pool" (12): P3 loses signal with 6 entries, and the pool stays NORMAL.
theorem test_signalLost_flushes :
    let t := after (.signalLost 3) (put 3 (fun x => { x with
      queue := (List.finRange 6).map fun i => entry ⟨i.val, by omega⟩ 6 0 .forwarded }) (occupied 67 (upAt 1000040)))
    (t.port 3).link = .down ∧ (t.port 3).counters.flushed = 6 ∧ (t.port 3).queue = [] ∧ t.freeCount = 35
      ∧ t.pool.hold = .normal ∧ t.notices.queue.map (fun r => (r.kind, r.subject, r.detail)) = [(.portDown, 3, 1)] := by
  decide +kernel

-- R121: the 64th valid symbol in a row.
theorem test_trainingSymbol_completes :
    let t := after (.trainingSymbol 2 0x23C) (linked 2 (.training 63) (upAt 250001))
    (t.port 2).link = .up 0 none
      ∧ t.notices.queue.map (fun r => (r.kind, r.time, r.subject, r.detail)) = [(.portUp, 250001, 2, 0)] := by
  decide +kernel

-- R121: an invalid symbol sets the count to 0.
theorem test_trainingSymbol_invalid_restarts :
    ((after (.trainingSymbol 2 0x0FF) (linked 2 (.training 63) (upAt 0))).port 2).link = .training 0 := by
  decide +kernel

-- "Crossing the watermarks" (06), at 60,010.
theorem test_sofReceived_enters_holding :
    let t := after (.sofReceived 2) (linked 3 .down (occupied 84 (upAt 60010)))
    t.freeCount = 11 ∧ t.pool.minFree = 11 ∧ t.pool.hold = .holding 60510 ∧ t.pool.holdEntries = 1
      ∧ (t.port 0).ctl = [.hold] ∧ (t.port 3).ctl = []
      ∧ t.notices.queue.map (fun r => (r.kind, r.subject, r.detail)) = [(.poolLow, 0, 11)] := by
  decide +kernel

-- "A reply against a full queue" (06): with 3 buffers free the frame has no buffer.
theorem test_sofReceived_without_a_buffer :
    let t := after (.sofReceived 0) (occupied 93 (upAt 0))
    (t.port 0).rx = .frame none [] ∧ t.freeCount = 3 := by
  decide +kernel

-- "Frames cut short" (07), reception b: payload length 200, header check good.
theorem test_dataByteReceived_length_error :
    let l := [0x14, 0x45, 0x10, 0xA3, 200]
    let t := after (.dataByteReceived 1 (headerCheck l)) (inside 1 l (upAt 0))
    (t.port 1).rx = .ignoring ∧ (t.port 1).counters.rxLength = 1 ∧ (t.port 1).score = 2 ∧ (t.buf 0).refs = 0 := by
  decide +kernel

-- "One frame through every step" (03).
theorem test_frameEnd_forwards :
    let l := frameBytes { kind := .data, prio := 2, hop := 4, tag := 0x4510A3, payloadLength := 40 } (List.replicate 40 0)
    let e := rule45 (.forward 0xE (some 5) (some { value := 0x000077, mask := 0x0000FF })) (some 12)
    let s := put 2 (fun x => { x with cfg := { x.cfg with queueLimit := 20 }, queue := List.replicate 20 (entry 1 0 0 .forwarded) })
      (put 1 (fun x => { x with queue := List.replicate 10 (entry 1 6 0 .forwarded) })
        (linked 3 .down (ruled 0 e ((upAt 2000000).setFlow 12 { flow12 with state := .onTime, lastArrival := some 1999000 }))))
    let t := after (.frameEnd 0) (inside 0 l s)
    t.hits.get 0 = 1 ∧ (t.port 1).queue.getLast? = some (entry 0 5 2000000 .forwarded) ∧ (t.port 1).queue.length = 11
      ∧ (t.port 2).counters.queueFull = 1 ∧ (t.buf 0).refs = 1
      ∧ headerOf (t.buf 0).bytes = { kind := .data, prio := 5, hop := 3, tag := 0x451077, payloadLength := 40 }
      ∧ (t.flow 12).lastArrival = some 2000000 ∧ (t.port 0).counters.rxGood = 1 := by
  decide +kernel

-- "Outcomes at a glance" (03): frame b is captured with hop 0, by the wildcard station.
theorem test_frameEnd_captures_before_the_hop_check :
    let t := after (.frameEnd 2) (inside 2 (emptyFrame .request 5 0 0xFF0042) (upAt 0))
    t.agent.queue = [{ buf := 0, port := 2 }] ∧ (t.buf 0).refs = 1 ∧ (t.port 2).counters.hopExpired = 0 := by
  decide +kernel

-- "A port that degrades into quarantine" (07), at 12,000.
theorem test_receiveError_runt_at_sof :
    let t := after (.receiveError 2 .sof) (inside 2 [1, 2] (weak 37 true (some 21000) 12000))
    (t.port 2).score = 39 ∧ (t.port 2).counters.rxRunt = 1 ∧ (t.port 2).rx = .frame (some 0) []
      ∧ (t.port 2).nextLeak = some 21000 := by
  decide +kernel

-- The same, at 4,000: the fourth error.
theorem test_receiveError_warns :
    let l := [0x14, 0x45, 0x10, 0xA3, 0]
    let t := after (.receiveError 2 (.data (headerCheck l + 1))) (inside 2 l (weak 12 false (some 11000) 4000))
    (t.port 2).score = 16 ∧ (t.port 2).warned = true ∧ (t.port 2).counters.rxHeaderCheck = 1
      ∧ t.notices.queue.map (fun r => (r.kind, r.detail)) = [(.portWarn, 16)] := by
  decide +kernel

-- The same, at 13,000.
theorem test_invalidSymbol_quarantines :
    let t := after (.invalidSymbol 2) (inside 2 [] (weak 39 true (some 21000) 13000))
    (t.port 2).link = .quarantine 1013000 ∧ (t.port 2).score = 40 ∧ (t.port 2).nextLeak = none
      ∧ (t.port 2).counters.rxCode = 1 ∧ t.faultN = false
      ∧ t.notices.queue.map (fun r => (r.kind, r.detail)) = [(.portQuarantined, 40)] := by
  decide +kernel

-- R122: the fourth invalid symbol in a row, between frames.
theorem test_invalidSymbol_loses_lock :
    let t := after (.invalidSymbol 1) (linked 1 (.up 3 none) (upAt 0))
    (t.port 1).link = .training 0 ∧ t.notices.queue.map (fun r => (r.kind, r.subject, r.detail)) = [(.portDown, 1, 2)] := by
  decide +kernel

-- "Frames cut short" (07), reception c: the expiry is the receipt plus 1 ms, and the frame goes on.
theorem test_holdReceived_inside_a_frame :
    let t := after (.holdReceived 1) (inside 1 [7, 8] (upAt 5000))
    (t.port 1).link = .up 0 (some 6000) ∧ (t.port 1).rx = .frame (some 0) [7, 8] := by
  decide +kernel

theorem test_resumeReceived_clears :
    ((after (.resumeReceived 1) (linked 1 (.up 2 (some 6000)) (upAt 5000))).port 1).link = .up 0 none := by
  decide +kernel

theorem test_holdExpiry_at_its_instant :
    ((after (.holdExpiry 1) (linked 1 (.up 2 (some 6000)) (upAt 6000))).port 1).link = .up 2 none
      ∧ ((after (.holdExpiry 1) (linked 1 (.up 2 (some 6000)) (upAt 5999))).port 1).link = .up 2 (some 6000) := by
  decide +kernel

-- "A port that degrades into quarantine" (07), at 11,000 and at 1,013,000.
theorem test_leak_and_quarantineEnd :
    (let t := after (.leak 2) (weak 38 true (some 11000) 11000)
     (t.port 2).score = 37 ∧ (t.port 2).warned = true ∧ (t.port 2).nextLeak = some 21000)
    ∧ (let t := after (.quarantineEnd 2) (linked 2 (.quarantine 1013000) (weak 40 true none 1013000))
       (t.port 2).score = 0 ∧ (t.port 2).warned = false ∧ (t.port 2).link = .training 0 ∧ t.faultN = true) := by
  decide +kernel

-- "Crossing the watermarks" (06), at 61,010.
theorem test_holdRepeat_to_up_ports :
    let s := linked 2 .down { upAt 61010 with pool := { initialPool with hold := .holding 61010 } }
    let t := after .holdRepeat s
    t.pool.hold = .holding 61510 ∧ (t.port 0).ctl = [.hold] ∧ (t.port 2).ctl = [] ∧ (t.port 3).ctl = [.hold] := by
  decide +kernel

/-- P1 of "A held port and its stale entries" (06), its age limit 2 ms. -/
def stale (now : Instant) (queue : List QueueEntry) (tx : Option Tx) : State :=
  put 1 (fun x => { x with cfg := { x.cfg with ageLimit := 2 }, queue, tx })
    ((occupied 3 (upAt now)).setBuf 1 { refs := 1, bytes := [0, 0, 0, 0, 128] })

theorem test_selection_ages_then_sends :
    let t := after (.selection 1) (stale 12600
      [entry 0 5 10000 .forwarded, entry 1 5 11500 .forwarded, entry 2 2 9000 .forwarded] none)
    (t.port 1).counters.aged = 1 ∧ (t.port 1).tx = some { buf := 1, left := 138 }
      ∧ (t.port 1).queue = [entry 2 2 9000 .forwarded] ∧ (t.buf 0).refs = 0 := by
  decide +kernel

theorem test_transmissionEnd_selects_at_once :
    let t := after (.transmissionEnd 1) (stale 12602 [entry 2 2 9000 .forwarded] (some { buf := 1, left := 0 }))
    (t.port 1).counters.txFrames = 1 ∧ (t.port 1).counters.aged = 1 ∧ (t.port 1).queue = [] ∧ (t.port 1).tx = none
      ∧ t.freeCount = 95 := by
  decide +kernel

/-! ### Timers of the flows, the banks and the Agent -/

-- "Deadlines across an adjustment" (04): the notice carries the expired deadline in cell time.
theorem test_deadlineExpiry_timestamp :
    let s := { withDeadline .onTime 3 0 108350 108400 with offset := (0 : BitVec 32) - 200000 }
    let t := after (.deadlineExpiry 12) s
    (t.flow 12).state = .late ∧ (t.flow 12).deadline = some 109350
      ∧ t.notices.queue.map (fun r => (r.kind, r.time, r.subject, r.detail)) = [(.flowLate, 4294875646, 12, 1)] := by
  decide +kernel

-- "A long silence" (05).
theorem test_fillUp_after_a_long_silence :
    let f := (after (.fillUp 60) ((upAt 778774528).setFlow 60
      { flow20 3500 4000000000 with cfg := { clearedFlowConfig with rate := 10, burst := 1000 } })).flow 60
    f.tokens = 1000000 ∧ f.lastRefill = 778774528 := by
  decide +kernel

-- "Expiry and commit in either order" (02), the expiry first.
theorem test_leaseExpiry_mirrors :
    let t := after .leaseExpiry { upAt 40000000 with ctrl := .editing (key 1) 30 40000000 }
    t.ctrl = .mirroring 0 40000000 ∧ t.active = 0
      ∧ t.notices.queue.map (fun r => (r.kind, r.subject, r.detail)) = [(.leaseExpired, 1, 0x0042)] := by
  decide +kernel

-- "An edit session with a scheduled commit" (02), at 15,000,000.
theorem test_activation_swaps :
    let t := after .activation { upAt 15000000 with ctrl := .scheduled (key 1) 518000000, offset := 503000000 }
    t.ctrl = .mirroring 0 15000000 ∧ t.active = 1
      ∧ t.notices.queue.map (fun r => (r.kind, r.time, r.subject, r.detail)) = [(.commitDone, 518000000, 1, 0x0042)] := by
  decide +kernel

-- The same, at 15,000,065: the miss record.
theorem test_mirrorStep_last :
    let s := { upAt 15000065 with ctrl := .mirroring 64 15000000, active := 1 }
    let t := after .mirrorStep { s with banks := s.banks.set 1 { clearedBank st with miss := .flood } }
    t.ctrl = .free ∧ t.shadowBank.miss = .flood := by
  decide +kernel

theorem test_agentReady_after_the_busy_interval :
    (after .agentReady { upAt 50015 with agent := { initialAgent with busyUntil := some 50015 } }).agent.busyUntil = none
      ∧ (after .agentReady { upAt 50014 with agent := { initialAgent with busyUntil := some 50015 } }).agent.busyUntil
        = some 50015 := by
  decide +kernel

-- R152: 900 s after its last use, unless it is the holder's.
theorem test_requesterEntryExpiry_spares_the_holder :
    let s := { upAt 900000005 with agent := { initialAgent with table := [entryOf 1 3 [] 5, entryOf 2 4 [] 6] } }
    (after (.requesterEntryExpiry (key 1)) s).agent.table = [entryOf 2 4 [] 6]
      ∧ (after (.requesterEntryExpiry (key 2)) s).agent.table = s.agent.table
      ∧ (after (.requesterEntryExpiry (key 1)) { s with ctrl := .editing (key 1) 30 0 }).agent.table = s.agent.table := by
  decide +kernel

/-! ### Takings -/

-- R147: counted MALFORMED and dropped, without a reply.
theorem test_malformed_is_dropped :
    let t := after .malformed (askingShort (upAt 100))
    t.agent.counters.malformed = 1 ∧ t.agent.counters.requestsTaken = 1 ∧ t.agent.busyUntil = some 110
      ∧ (t.port 1).queue = [] ∧ (t.buf 0).refs = 0 ∧ t.agent.table = [] := by
  decide +kernel

-- "A retried COMMIT whose reply was lost" (12): the cached reply, nothing carried out.
theorem test_replay_sends_the_cached_reply :
    let s := asking 1 0x15 [0, 0, 0, 0, 0] (upAt 60010000)
    let cached := [0x15, 0, 17, 0, 3, 1, 0, 0, 0, 0, 0]
    let t := after .replay { s with agent := { s.agent with table := [entryOf 1 17 cached 60000000] } }
    sentOn 1 t = some cached ∧ t.agent.counters.replay = 1 ∧ t.agent.table = [entryOf 1 17 cached 60010000]
      ∧ t.ctrl = .free ∧ t.active = 0 := by
  decide +kernel

theorem test_unknownCommand_is_answered : answerOn 1 (after .unknownCommand (asking 1 0x04 [] (upAt 0))) = some [1] := by
  decide +kernel

-- R163: vendor, part, revision, station, straps, cell time, local time.
theorem test_identify_answers :
    answerOn 1 (after .identify (asking 1 0x01 [] { upAt 17999850 with offset := 7000000 }))
      = some ([0, 0x0A, 0x57, 0x04, 0x84, 1, 3, 3] ++ be32 24999850 ++ be32 17999850) := by
  decide +kernel

theorem test_identify_of_a_wrong_length : answerOn 1 (after .identify (asking 1 0x01 [0] (upAt 0))) = some [2] := by
  decide +kernel

-- R165, R166: read, then cleared.
theorem test_readCountersPort_clears :
    let t := after .readCountersPort (asking 1 0x02 [0, 1, 0, 0]
      (put 0 (fun x => { x with counters := { zeroPortCounters with rxGood := 0x01020304, aborted := 9 } }) (upAt 0)))
    (answerOn 1 t).map (fun l => (l.length, l.take 5, l.drop 73)) = some (77, [0, 1, 2, 3, 4], [0, 0, 0, 9])
      ∧ (t.port 0).counters = zeroPortCounters := by
  decide +kernel

-- "Crossing the watermarks" (06): READ_COUNTERS POOL with clear.
theorem test_readCountersPool_clears :
    let s := occupied 73 (upAt 61400)
    let s := { s with pool := { s.pool with minFree := 11, holdEntries := 1 } }
    let t := after .readCountersPool (asking 1 0x02 [0x10, 1, 0, 0] s)
    answerOn 1 t = some [0, 23, 11, 0, 0, 0, 0, 1] ∧ t.pool.holdEntries = 0 := by
  decide +kernel

-- R158: this taking is counted in the value read.
theorem test_readCountersAgent_counts_this_taking :
    answerOn 1 (after .readCountersAgent (asking 1 0x02 [0x20, 0, 0, 0] (upAt 0)))
      = some ([0] ++ be32 1 ++ be32 0 ++ be32 0 ++ be32 0 ++ be32 0) := by
  decide +kernel

theorem test_readCountersRules_clears_its_range :
    let t := after .readCountersRules (asking 1 0x02 [0x30, 1, 62, 2] { upAt 0 with hits := Vector.replicate 64 7 })
    answerOn 1 t = some ([0] ++ be32 7 ++ be32 7) ∧ t.hits.get 63 = 0 ∧ t.hits.get 61 = 7 := by
  decide +kernel

-- "Deadlines across an adjustment" (04), at 108,100.
theorem test_adjustTime_back :
    let t := after .adjustTime (asking 1 0x03 (be32 ((0 : BitVec 32) - 1200000)) { upAt 108100 with offset := 1000000 })
    t.cellTime = 4294875396 ∧ answerOn 1 t = some ([0] ++ be32 4294875396 ++ be32 (0 - 200000)) := by
  decide +kernel

-- "Had the adjustment instead been +7,000,000" (02): the swap is taken inside the command.
theorem test_adjustTime_swaps :
    let t := after .adjustTime (asking 2 0x03 (be32 7000000)
      { upAt 12000000 with offset := 500000000, ctrl := .scheduled (key 1) 518000000 })
    t.active = 1 ∧ t.ctrl = .mirroring 0 12000000
      ∧ t.notices.queue.map (fun r => (r.kind, r.time, r.detail)) = [(.commitDone, 519000000, 0x0042)] := by
  decide +kernel

-- "One requester's session, command by command" (09), row by row, down to SET_NOTICES.
theorem test_openEdit_grants :
    let t := after .openEdit (asking 1 0x10 [0, 20] (upAt 10000100))
    t.ctrl = .editing (key 1) 20 30000100 ∧ answerOn 1 t = some ([0, 1, 0, 1] ++ be32 20000) := by
  decide +kernel

theorem test_openEdit_of_no_time :
    let t := after .openEdit (asking 1 0x10 [0, 0] (upAt 10000000))
    t.ctrl = .free ∧ answerOn 1 t = some [3] := by
  decide +kernel

-- "Images and their outcomes" (01), the first image: stored with match value 0.
theorem test_writeRule_normalises :
    let t := after .writeRule (editing 0x11 (3 :: ruleImageBytes (image 7)) 5000000 30)
    (t.shadowBank.entries.get 3).matchValue = 0 ∧ (t.shadowBank.entries.get 3).matchMask = 0x00FF00
      ∧ (t.shadowBank.entries.get 3).action = .forward 2 none none ∧ t.activeBank.entries.get 3 = clearedRule
      ∧ t.ctrl = .editing (key 1) 30 35000000 := by
  decide +kernel

-- The same table: a DROP image with a new priority, a rewrite with mask 0, a flow of 200, a range of 6..2, a DROP image
-- with a forward set; and a range of 6..2 in an image not marked valid.
theorem test_writeRule_checks :
    ruleImageOk { image 7 with dropAction := true, forward := 0, hasPrio := true, newPrio := 3 } = false
      ∧ ruleImageOk { image 7 with hasRewrite := true } = false
      ∧ ruleImageOk { image 7 with hasFlow := true, flowIx := 200 } = false
      ∧ ruleImageOk { image 7 with hasFlow := true, flowIx := 90 } = true
      ∧ ruleImageOk { image 2 with lo := 6 } = false
      ∧ ruleImageOk { image 7 with dropAction := true, forward := 4 } = false
      ∧ (let t := after .writeRule (editing 0x11 (3 :: ruleImageBytes { image 2 with valid := false, lo := 6, reserved9 := 3 }) 0 30)
         answerOn 1 t = some ([0, 1, 0, 1] ++ be32 30000) ∧ t.shadowBank.entries.get 3 = clearedRule) := by
  decide +kernel

theorem test_clearRules_range :
    let t := after .clearRules (editing 0x12 [60, 8] 10500000 20)
    answerOn 1 t = some [3] ∧ t.ctrl = .editing (key 1) 20 31000000 := by
  decide +kernel

theorem test_clearRules_renews :
    let s := editing 0x12 [60, 4] 11000000 20
    let t := after .clearRules { s with banks := s.banks.set 1 { clearedBank st with entries := Vector.replicate 64 (rule45 .drop none) } }
    answerOn 1 t = some ([0, 1, 0, 1] ++ be32 20000) ∧ t.shadowBank.entries.get 60 = clearedRule
      ∧ t.shadowBank.entries.get 59 = rule45 .drop none ∧ t.ctrl = .editing (key 1) 20 31000000 := by
  decide +kernel

theorem test_writeMiss_of_another_requester :
    let t := after .writeMiss { asking 2 0x13 [1] (upAt 11200000) with ctrl := .editing (key 1) 20 31000000 }
    answerOn 2 t = some [5] ∧ t.shadowBank.miss = .drop := by
  decide +kernel

-- "An edit session with a scheduled commit" (02), at 9,000,000.
theorem test_writeMiss_while_scheduled :
    answerOn 1 (after .writeMiss { asking 1 0x13 [1] (upAt 9000000) with ctrl := .scheduled (key 1) 518000000 })
      = some [7] := by
  decide +kernel

theorem test_readRules_range :
    answerOn 1 (after .readRules (editing 0x14 [0, 62, 4] 11400000 20)) = some [3] := by
  decide +kernel

theorem test_readRules_while_mirroring :
    answerOn 2 (after .readRules { asking 2 0x14 [1, 0, 1] (upAt 12000060) with ctrl := .mirroring 9 12000050 })
      = some [8] := by
  decide +kernel

theorem test_commitNow_of_mode_7 :
    let t := after .commitNow (editing 0x15 [7, 0, 0, 0, 0] 12000000 20)
    answerOn 1 t = some [3] ∧ t.ctrl = .editing (key 1) 20 31000000 := by
  decide +kernel

theorem test_commitNow_swaps :
    let t := after .commitNow (editing 0x15 [0, 0, 0, 0, 0] 12000050 20)
    answerOn 1 t = some [0, 3, 1, 0, 0, 0, 0, 0] ∧ t.active = 1 ∧ t.ctrl = .mirroring 0 12000050
      ∧ t.notices.queue.map (fun r => (r.kind, r.subject, r.detail)) = [(.commitDone, 1, 0x0042)] := by
  decide +kernel

-- "An edit session with a scheduled commit" (02), at 8,000,000.
theorem test_commitAt_schedules :
    let t := after .commitAt { editing 0x15 (1 :: be32 518000000) 8000000 30 with offset := 500000000 }
    t.ctrl = .scheduled (key 1) 518000000 ∧ answerOn 1 t = some [0, 2, 0, 0, 0, 0, 0, 0] := by
  decide +kernel

theorem test_abandon_without_a_lease : answerOn 1 (after .abandon (asking 1 0x16 [] (upAt 12000200))) = some [6] := by
  decide +kernel

theorem test_abandon_mirrors :
    (after .abandon { asking 1 0x16 [] (upAt 900) with ctrl := .scheduled (key 1) 5 }).ctrl = .mirroring 0 900 := by
  decide +kernel

-- "Writing a lost flow" (04).
theorem test_writeFlow_checks_the_tolerance :
    let s := withDeadline .lost 3 3 0 0
    answerOn 1 (after .writeFlow (asking 1 0x20 (flowArgs 12 1 2000 1001) s)) = some [3]
      ∧ (let t := after .writeFlow (asking 1 0x20 (flowArgs 12 1 2000 1000) s)
         answerOn 1 t = some [0, 1] ∧ (t.flow 12).state = .armed ∧ (t.flow 12).missCount = 0 ∧ t.faultN = true
          ∧ s.faultN = false) := by
  decide +kernel

theorem test_writeFlow_unused_keeps_no_configuration :
    let t := after .writeFlow (asking 1 0x20 (flowArgs 12 0 0 0) (withDeadline .lost 3 3 0 500))
    answerOn 1 t = some [0, 0] ∧ t.flow 12 = clearedFlow 500 := by
  decide +kernel

-- "Deadlines across an adjustment" (04), at 108,200.
theorem test_readFlow_in_cell_time :
    let f := { flow12 with state := .onTime, deadline := some 108350, lastArrival := some 107250, tokens := 22999 }
    let s := { (upAt 108200).setFlow 12 f with offset := (0 : BitVec 32) - 200000 }
    (answerOn 1 (after .readFlow (asking 1 0x21 [12, 0] s))).map (fun l => (l.drop 16).take 13)
      = some ([2, 0, 3] ++ be32 4294875646 ++ be32 4294874546 ++ [0, 22]) := by
  decide +kernel

-- "Lockout" (09): its own port's accept-management, and thresholds out of order, checked first.
theorem test_setPort_lockout :
    answerOn 0 (after .setPort (asking 0 0x30 (portArgs 0 1 16 40) (upAt 0))) = some [9]
      ∧ answerOn 0 (after .setPort (asking 0 0x30 (portArgs 0 1 100 100) (upAt 0))) = some [3] := by
  decide +kernel

-- R124, R138: enable off takes an UP port to DISABLED, with PORT_DOWN of detail 0.
theorem test_setPort_disables :
    let t := after .setPort (asking 0 0x30 (portArgs 3 2 16 40) (upAt 0))
    (t.port 3).link = .disabled ∧ (t.port 3).cfg.warnThreshold = 16
      ∧ t.notices.queue.map (fun r => (r.kind, r.subject, r.detail)) = [(.portDown, 3, 0)] := by
  decide +kernel

-- R139, R200: the default configuration, UP.
theorem test_readPort_answers :
    answerOn 0 (after .readPort (asking 0 0x31 [2] (upAt 0)))
      = some [0, 2, 3, 48, 32, 0, 64, 0, 192, 10, 10, 10, 3, 0, 0, 0, 0, 0, 0] := by
  decide +kernel

theorem test_releasePort :
    (let t := after .releasePort (asking 0 0x32 [2] (linked 2 (.quarantine 9000) (weak 40 true none 500)))
     (t.port 2).link = .training 0 ∧ (t.port 2).score = 0 ∧ (t.port 2).warned = false)
    ∧ answerOn 0 (after .releasePort (asking 0 0x32 [2] (upAt 0))) = some [4] := by
  decide +kernel

theorem test_setNotices_stores :
    let a := [2, 1, 2, 3, 6, 0x0F, 0xFE]
    let t := after .setNotices (asking 0 0x40 a (upAt 0))
    answerOn 0 t = some (0 :: a) ∧ t.notices.cfg = { dest := 2, tag := 0x010203, prio := 6, mask := 0xFFE } := by
  decide +kernel

-- R144, R184: queues flushed, flows in use armed, tables kept.
theorem test_resetTraffic_flushes :
    let s := put 2 (fun x => { x with queue := [entry 5 3 0 .forwarded] }) (occupied 6 (withDeadline .late 3 1 9 800))
    let t := after .resetTraffic (asking 0 0x7F [0] s)
    (t.port 2).queue = [] ∧ (t.port 2).counters.flushed = 1 ∧ t.freeCount = 91 ∧ (t.flow 12).state = .armed
      ∧ (t.flow 12).deadline = none ∧ answerOn 0 t = some [0, 0] := by
  decide +kernel

-- "A full reset whose reply is lost" (08): one requester entry, all counters 0, a later request discarded.
theorem test_resetFull_restarts :
    let s := asking 0 0x7F [1] { upAt 400015 with offset := 5 }
    let t := after .resetFull { s with agent := { s.agent with queue := s.agent.queue ++ [{ buf := 1, port := 2 }] } }
    t.agent.queue = [] ∧ t.agent.counters = zeroAgentCounters ∧ t.agent.busyUntil = some 400025
      ∧ t.agent.table = [entryOf 0 17 [0x7F, 0, 17, 0, 1] 400015] ∧ answerOn 0 t = some [0, 1] ∧ t.offset = 5
      ∧ (t.port 1).link = .up 0 none
      ∧ t.notices.queue.map (fun r => (r.kind, r.subject, r.detail)) = [(.restarted, 1, 0)] := by
  decide +kernel

-- R41, R159: a frame end that comes together with FULL, taken after it, is classified on bank 0, or captured; R143: one
-- that comes later counts POOL_EMPTY.
theorem test_resetFull_together_with_a_frame_end :
    (let s := inside 0 (emptyFrame .data 2 4 0x4510A3) (upAt 0)
     (((s.fullReset 5).port 0).rx = .stripped (emptyFrame .data 2 4 0x4510A3) ∧ (s.fullReset 5).freeCount = 96))
    ∧ (let t := after (.frameEnd 0) (stripped 0 (emptyFrame .data 2 4 0x4510A3) (upAt 0))
       (t.port 0).counters = { zeroPortCounters with rxGood := 1, missDrop := 1 } ∧ t.freeCount = 96)
    ∧ (let t := after (.frameEnd 0) (stripped 0 (emptyFrame .request 5 7 0x030042) (upAt 0))
       t.agent.queue = [{ buf := 0, port := 0 }] ∧ (t.buf 0).bytes = emptyFrame .request 5 7 0x030042
        ∧ (t.port 0).counters.poolEmpty = 0)
    ∧ (let t := after (.frameEnd 0) (stripped 0 (emptyFrame .data 2 4 0x4510A3) (upAt 0)).tick
       (t.port 0).counters = { zeroPortCounters with poolEmpty := 1 }) := by
  decide +kernel

/-! ### Notices -/

-- "A batch after the notice port returns" (10): 32 records, 4 lost; the first build, payload length 121.
theorem test_noticeBuild_first :
    let s := noticed 32 (upAt 300001)
    let t := after .noticeBuild { s with notices := { s.notices with lost := 4, nextSeq := 136 } }
    t.notices.queue.length = 21 ∧ t.notices.lost = 0 ∧ t.notices.waiting = some 0
      ∧ t.notices.queue.getLast?.map (fun r => (r.seq, r.kind, r.detail)) = some (136, .noticesLost, 4)
      ∧ (sentOn 0 t).map (fun l => (l.length, l.take 1)) = some (121, [12]) := by
  decide +kernel

end Sys2Proof.Tests
end

section
/-! The rule table's bit-by-bit readings: the tag condition (R3) and the tag rewrite (R12). Both rest on a value whose
bits outside its mask are 0, the form in which R1 and R17 have the part hold match values and rewrite values. -/

namespace Sys2Proof.RuleTable
open Sys2Proof.Machine

/-- The normalised form of R17, read at one bit: outside its mask a held value has no bit set. -/
theorem getLsbD_eq_false_outside_mask {n : Nat} {value mask : BitVec n} (hvalue : value &&& ~~~mask = 0)
    {i : Nat} (hmask : mask.getLsbD i = false) : value.getLsbD i = false := by
  by_cases hi : i < n
  · have hbit : (value &&& ~~~mask).getLsbD i = false := by rw [hvalue]; exact BitVec.getLsbD_zero
    rwa [BitVec.getLsbD_and, BitVec.getLsbD_not, hmask, decide_eq_true hi, Bool.not_false, Bool.and_true,
      Bool.and_true] at hbit
  · exact BitVec.getLsbD_of_ge _ _ (by omega)

/-- Masking gives the held value exactly when the bits under the mask agree: off the mask both sides are 0. -/
theorem and_mask_eq_iff_agree_under_mask {n : Nat} {value mask : BitVec n} (hvalue : value &&& ~~~mask = 0)
    (t : BitVec n) :
    t &&& mask = value ↔ ∀ i, i < n → mask.getLsbD i = true → t.getLsbD i = value.getLsbD i := by
  constructor
  · rintro rfl i _ hmask
    simp [hmask]
  · intro hagree
    apply BitVec.eq_of_getLsbD_eq
    intro i hi
    rw [BitVec.getLsbD_and]
    cases hmask : mask.getLsbD i with
    | true => rw [hagree i hi hmask, Bool.and_true]
    | false => rw [getLsbD_eq_false_outside_mask hvalue hmask, Bool.and_false]

/-- Values that agree under a mask are the same once masked. -/
theorem and_mask_eq_and_mask_of_agree {n : Nat} {mask t u : BitVec n}
    (hagree : ∀ i, i < n → mask.getLsbD i = true → u.getLsbD i = t.getLsbD i) : u &&& mask = t &&& mask := by
  apply BitVec.eq_of_getLsbD_eq
  intro i hi
  rw [BitVec.getLsbD_and, BitVec.getLsbD_and]
  cases hmask : mask.getLsbD i with
  | true => rw [hagree i hi hmask]
  | false => rw [Bool.and_false, Bool.and_false]

/-! ### The tag condition -/

theorem tagCondition_iff (e : RuleEntry) (t : Tag) :
    tagCondition e t = true ↔ t &&& e.matchMask = e.matchValue := by
  unfold tagCondition
  exact beq_iff_eq

/-- The condition sees a tag only through its masked part. -/
theorem tagCondition_congr (e : RuleEntry) {t u : Tag} (h : u &&& e.matchMask = t &&& e.matchMask) :
    tagCondition e u = tagCondition e t := by
  rw [Bool.eq_iff_iff, tagCondition_iff, tagCondition_iff, h]

/-- With mask 0 the held match value is 0 too, so the condition says `0 = 0`. -/
theorem tagCondition_of_matchMask_zero {e : RuleEntry} (hvalue : e.matchValue &&& ~~~e.matchMask = 0)
    (hmask : e.matchMask = 0) (t : Tag) : tagCondition e t = true := by
  rw [tagCondition_iff, and_mask_eq_iff_agree_under_mask hvalue]
  intro i _ hbit
  simp [hmask] at hbit

theorem tagCondition_iff_eq_of_matchMask_full {e : RuleEntry} (hmask : e.matchMask = 0xFFFFFF) (t : Tag) :
    tagCondition e t = true ↔ t = e.matchValue := by
  have hfull : e.matchMask = BitVec.allOnes 24 := hmask
  rw [tagCondition_iff, hfull, BitVec.and_allOnes]

/-- Settles O20: the masked comparison is read bit by bit, and the two extreme masks are instances of it. -/
theorem tagConditionComparesMaskedBits : Obligations.TagConditionComparesMaskedBits := by
  intro e t hvalue
  refine ⟨tagCondition_iff e t, ?bits, ?agree, ?maskZero, ?maskFull⟩
  case bits => exact (tagCondition_iff e t).trans (and_mask_eq_iff_agree_under_mask hvalue t)
  case agree => exact fun u hagree => tagCondition_congr e (and_mask_eq_and_mask_of_agree hagree)
  case maskZero => exact fun hmask => tagCondition_of_matchMask_zero hvalue hmask t
  case maskFull => exact fun hmask => tagCondition_iff_eq_of_matchMask_full hmask t

/-! ### The tag rewrite -/

@[simp] theorem rewriteTag_some (w : Rewrite) (t : Tag) :
    rewriteTag (some w) t = (t &&& ~~~w.mask) ||| w.value := rfl

@[simp] theorem rewriteTag_none (t : Tag) : rewriteTag none t = t := rfl

/-- A present rewrite at one bit. The mask's complement clears the received bit under the mask, and off the mask the
held value adds nothing. -/
theorem getLsbD_rewriteTag_some {w : Rewrite} (hvalue : w.value &&& ~~~w.mask = 0) (t : Tag) {i : Nat} (hi : i < 24) :
    (rewriteTag (some w) t).getLsbD i = if w.mask.getLsbD i then w.value.getLsbD i else t.getLsbD i := by
  rw [rewriteTag_some, BitVec.getLsbD_or, BitVec.getLsbD_and, BitVec.getLsbD_not, decide_eq_true hi]
  cases hmask : w.mask.getLsbD i with
  | true => simp
  | false => rw [getLsbD_eq_false_outside_mask hvalue hmask]; simp

/-- Settles O22: bit by bit from the held form of the rewrite value; the arithmetic form is the model's own. -/
theorem rewriteReplacesTheMaskedBits : Obligations.RewriteReplacesTheMaskedBits := by
  intro w t hvalue
  exact ⟨fun i hi => getLsbD_rewriteTag_some hvalue t hi, rewriteTag_some w t, rewriteTag_none t⟩

end Sys2Proof.RuleTable
end

section
/-! The Bank Controller under OPEN_EDIT and ABANDON, and at power-on (R25, R36, R40): what each command makes of the
state that serves it, and the reply that follows. -/

namespace Sys2Proof.BankController
open Sys2Proof.Machine

/-! ### A command carried out, from its row to its reply -/

/-- What the reply of a command needs of the state that takes it: the request's buffer is held once, in a sound pool. -/
theorem reply_ready_of_carriesCommand {s : State} {r : Taken} {code : Byte} {n : Nat} (h : s.carriesCommand r code n) :
    (s.buf r.buf).refs = 1 ∧ s.pool.wf ∧ r.args.length = n := by
  obtain ⟨⟨⟨_, _, _, hrefs, hwf⟩, _, _⟩, _, hlen⟩ := h
  exact ⟨hrefs, hwf, hlen⟩

@[simp] theorem served_ctrl (s : State) (r : Taken) : (s.served r).ctrl = s.ctrl := rfl

/-- What `checkLength` and the row add to a command: the row carries it out, and its reply follows, when the command's
whole effect, the Agent apart, is to make `s` into `u`. -/
theorem exists_replied_of_cmd {s u : State} {r : Taken} {code : Byte} {n : Nat} {row : Instr}
    {cmd : Taken → State → Answer} {st : Status} {results : List Byte}
    (h : s.carriesCommand r code n) (hrow : commandRow code r.args = row)
    (hexec : exec row s = .next (s.taking row (State.carryOut (checkLength n cmd))))
    (hcmd : cmd r (s.served r) = { state := { u with agent := (s.served r).agent }, status := st, results := results })
    (hpool : u.pool = s.pool) (htime : u.localTime = s.localTime) :
    ∃ t, exec row s = .next t ∧ Replied s u t r st results := by
  obtain ⟨hrefs, hwf, hlen⟩ := reply_ready_of_carriesCommand h
  refine ⟨s.carryOut (checkLength n cmd) r, by rw [hexec, taking_carries h hrow], ?_⟩
  refine carryOut_replied ((checkLength_ok hlen).trans hcmd) (hpool ▸ hwf) ?_ htime
  rw [State.buf, hpool]
  exact hrefs

/-! ### OPEN_EDIT (R25) -/

/-- A lease of a duration in range, just set, is reported whole (R167). -/
theorem acceptEdit_setLease (s : State) (k : Key) {d : Nat} (h1 : 1 ≤ d) (h2 : d ≤ 600) :
    (s.setLease k d).acceptEdit
      = { state := { s with ctrl := .editing k d (s.localTime + BitVec.ofNat 32 (d * 1000000)) }
          status := .ok, results := leasedResults s.active d } :=
  congrArg (Answer.mk _ .ok) (s.leaseResults_leased k h1 h2)

section
variable {r : Taken} {s : State}

/-- From FREE, and for the holder in EDITING, the answer turns on the duration alone. -/
theorem cmdOpenEdit_of_free_or_own (hmine : s.ctrl = .free ∨ ∃ n e, s.ctrl = .editing r.key n e) :
    cmdOpenEdit r s =
      if 1 ≤ (halfAt r.args 0).toNat ∧ (halfAt r.args 0).toNat ≤ 600 then
        (s.setLease r.key (halfAt r.args 0).toNat).acceptEdit
      else s.refuse .badArgument := by
  unfold cmdOpenEdit
  obtain hfree | ⟨n, e, hown⟩ := hmine
  · rw [hfree]
  · rw [hown]
    exact if_pos rfl

theorem cmdOpenEdit_grants (hmine : s.ctrl = .free ∨ ∃ n e, s.ctrl = .editing r.key n e)
    (h1 : 1 ≤ (halfAt r.args 0).toNat) (h2 : (halfAt r.args 0).toNat ≤ 600) :
    cmdOpenEdit r s
      = { state := { s with ctrl := .editing r.key (halfAt r.args 0).toNat
                              (s.localTime + BitVec.ofNat 32 ((halfAt r.args 0).toNat * 1000000)) }
          status := .ok, results := leasedResults s.active (halfAt r.args 0).toNat } := by
  rw [cmdOpenEdit_of_free_or_own hmine, if_pos ⟨h1, h2⟩, acceptEdit_setLease s r.key h1 h2]

theorem cmdOpenEdit_of_duration_out_of_range (hmine : s.ctrl = .free ∨ ∃ n e, s.ctrl = .editing r.key n e)
    (hout : (halfAt r.args 0).toNat = 0 ∨ 600 < (halfAt r.args 0).toNat) :
    cmdOpenEdit r s = s.refuse .badArgument := by
  rw [cmdOpenEdit_of_free_or_own hmine, if_neg (by omega)]

theorem cmdOpenEdit_of_other {k : Key} (hk : k ≠ r.key)
    (hother : (∃ n e, s.ctrl = .editing k n e) ∨ ∃ a, s.ctrl = .scheduled k a) :
    cmdOpenEdit r s = s.refuse .notHolder := by
  unfold cmdOpenEdit
  obtain ⟨n, e, hediting⟩ | ⟨a, hscheduled⟩ := hother
  · rw [hediting]
    exact if_neg hk
  · rw [hscheduled]
    exact if_neg hk

theorem cmdOpenEdit_of_own_scheduled {a : Instant} (hctrl : s.ctrl = .scheduled r.key a) :
    cmdOpenEdit r s = s.refuse .pending := by
  unfold cmdOpenEdit
  rw [hctrl]
  exact if_pos rfl

theorem cmdOpenEdit_of_mirroring {i : Fin 65} {e : Instant} (hctrl : s.ctrl = .mirroring i e) :
    cmdOpenEdit r s = s.refuse .mirroring := by
  unfold cmdOpenEdit
  rw [hctrl]

end

/-- OPEN_EDIT refused where it is served leaves the controller as it was, and its reply names the refusal. -/
theorem openEdit_refused {r : Taken} {s : State} {st : Status} (h : s.carriesCommand r 0x10 2)
    (hcmd : cmdOpenEdit r (s.served r) = (s.served r).refuse st) :
    ∃ t, exec .openEdit s = .next t ∧ Replied s s t r st [] :=
  exists_replied_of_cmd h rfl rfl hcmd rfl rfl

/-- Settles O43: the table of R25 row by row, each row from the answer of `cmdOpenEdit` in that state. -/
theorem openEditGrantsTheLease : Obligations.OpenEditGrantsTheLease := by
  intro r s h
  refine ⟨?granted, ?outOfRange, ?other, ?pending, ?mirroring⟩
  case granted =>
    exact fun hmine h1 h2 =>
      exists_replied_of_cmd h rfl rfl (cmdOpenEdit_grants (s := s.served r) hmine h1 h2) rfl rfl
  case outOfRange => exact fun hmine hout => openEdit_refused h (cmdOpenEdit_of_duration_out_of_range hmine hout)
  case other => exact fun k hk hother => openEdit_refused h (cmdOpenEdit_of_other hk hother)
  case pending => exact fun a hctrl => openEdit_refused h (cmdOpenEdit_of_own_scheduled hctrl)
  case mirroring => exact fun i e hctrl => openEdit_refused h (cmdOpenEdit_of_mirroring hctrl)

/-! ### Power-on (R40) -/

/-- Settles O5: each clause is a field of `State.powerOn`, its tables uniform; the one notice there is RESTARTED. -/
theorem powerOnLeavesTheBanksCleared : Obligations.PowerOnLeavesTheBanksCleared := by
  intro st lanes s
  refine ⟨_, rfl, rfl, rfl, ?entries, ?miss, ?hits, ?notices⟩
  case entries =>
    intro b i
    show ((Vector.replicate 2 (clearedBank st)).get b).entries.get i = clearedRule
    rw [get_replicate]
    exact get_replicate clearedRule i
  case miss =>
    intro b
    show ((Vector.replicate 2 (clearedBank st)).get b).miss = strapMiss st
    rw [get_replicate]
    rfl
  case hits => exact fun i => get_replicate 0 i
  case notices =>
    intro n hn
    obtain rfl := List.mem_singleton.1 hn
    exact ⟨by decide, by decide⟩

/-! ### ABANDON (R36) -/

/-- The holder's ABANDON passes the state and holder check in EDITING and in SCHEDULED (R28). -/
theorem editGate_abandon_of_holder {c : Controller} {k : Key} (hc : holderOf c = some k) :
    editGate c k true = none := by
  cases c with
  | free | mirroring => cases hc
  | editing | scheduled =>
    obtain rfl := Option.some.inj hc
    exact if_pos rfl

/-- In MIRRORING there is no lease to report (R167). -/
theorem leaseResults_of_mirroring {s : State} {i : Fin 65} {e : Instant} (hctrl : s.ctrl = .mirroring i e) :
    s.leaseResults = noLeaseResults 3 s.active := by
  unfold State.leaseResults noLeaseResults
  rw [hctrl, ← activeByte]
  rfl

/-- ABANDON of the holder ends its protection and enters MIRRORING at step 0 (R36, R152). -/
theorem gated_cmdAbandon_of_holder {r : Taken} {s : State} (hholder : holderOf s.ctrl = some r.key) :
    gated true cmdAbandon r s
      = { state := { s.unprotect r.key with ctrl := .mirroring 0 s.localTime }
          status := .ok, results := noLeaseResults 3 s.active } := by
  unfold gated
  rw [editGate_abandon_of_holder hholder]
  show s.startMirror.acceptEdit = _
  rw [State.startMirror_eq hholder]
  exact congrArg (Answer.mk _ .ok) (leaseResults_of_mirroring rfl)

/-- The protection of a requester ends at its own entry and at no other (R152). -/
theorem unprotect_table {s : State} {k : Key} {others : List Requester} {e : Requester}
    (htable : s.agent.table = others ++ [e]) (hothers : ∀ x ∈ others, x.key ≠ k) (hkey : e.key = k) :
    (s.unprotect k).agent.table = others ++ [{ e with lastUsed := s.localTime }] := by
  have hkept : others.map (fun x => if x.key = k then { x with lastUsed := s.localTime } else x) = others.map id :=
    List.map_congr_left fun x hx => if_neg (hothers x hx)
  show s.agent.table.map _ = _
  rw [htable, List.map_append, hkept, List.map_id, List.map_singleton, if_pos hkey]

/-- The end of the served requester's protection leaves no trace: its entry is used in this very taking (R148, R152). -/
theorem servedTable_unprotect (s : State) (r : Taken) :
    servedTable r.key s.localTime (s.otherRequesters r.key) ((s.served r).unprotect r.key).agent.table := by
  obtain ⟨e, hkey, _, htable⟩ := served_table s r
  have hothers : ∀ x ∈ s.otherRequesters r.key, x.key ≠ r.key := fun _ => otherRequesters_key
  exact ⟨hothers, .inl ⟨{ e with lastUsed := s.localTime }, hkey, rfl, unprotect_table htable hothers hkey⟩⟩

/-- Settles O47: the holder's ABANDON passes the gate in both states, and beside the controller it touches only the
holder's own requester entry, which ends as after any taking. -/
theorem abandonMirrorsWithoutASwap : Obligations.AbandonMirrorsWithoutASwap := by
  intro r s h hctrl
  have hholder : holderOf (s.served r).ctrl = some r.key := by
    obtain ⟨d, e, hediting⟩ | ⟨a, hscheduled⟩ := hctrl
    · rw [served_ctrl, hediting]; rfl
    · rw [served_ctrl, hscheduled]; rfl
  obtain ⟨hrefs, hwf, hlen⟩ := reply_ready_of_carriesCommand h
  refine ⟨s.carryOut (checkLength 0 (gated true cmdAbandon)) r, congrArg _ (taking_carries h rfl), ?_⟩
  exact carryOut_answered (u := { s with ctrl := .mirroring 0 s.localTime })
    ((checkLength_ok hlen).trans (gated_cmdAbandon_of_holder hholder)) (servedTable_unprotect s r) hwf hrefs

end Sys2Proof.BankController
end

section
/-! What a step can do, said once: the command at the front of the queue or one symbol time; and for each command the
happening it makes, with the conditions under which it is taken. The invariants and frames are derived from this. -/

namespace Sys2Proof.Happenings
open Sys2Proof.Machine

/-- What a command of the Agent leaves when it is carried out for `r` in `s`, its reply apart, row by row. -/
inductive Carried (r : Taken) (s : State) : Instr → State → Prop
  | same {row : Instr} : Carried r s row s
  | clearPort (p : Port) : Carried r s .readCountersPort (s.setPort p { s.port p with counters := zeroPortCounters })
  | clearPool : Carried r s .readCountersPool s.clearPool
  | clearAgent : Carried r s .readCountersAgent { s with agent := { s.agent with counters := zeroAgentCounters } }
  | clearHits (first count : Byte) : Carried r s .readCountersRules (s.clearHits first count)
  | adjust (step : BitVec 32) : Carried r s .adjustTime (s.adjustOffset step)
  | lease {d : Nat} (hmine : s.ctrl = .free ∨ ∃ n e, s.ctrl = .editing r.key n e) (h1 : 1 ≤ d) (h2 : d ≤ 600) :
      Carried r s .openEdit (s.setLease r.key d)
  | write {row : Instr} {d : Nat} {e : Instant} (b : Bank) (hrow : row ∈ [Instr.writeRule, .clearRules, .writeMiss])
      (hc : s.ctrl = .editing r.key d e) : Carried r s row ((s.setShadow b).renew r.key)
  | renew : Carried r s .readRules (s.renew r.key)
  | commit {row : Instr} {d : Nat} {e : Instant} (hrow : row ∈ [Instr.commitNow, .commitAt])
      (hc : s.ctrl = .editing r.key d e) : Carried r s row s.swap
  | schedule {d : Nat} {e : Instant} (a : Instant) (hc : s.ctrl = .editing r.key d e) :
      Carried r s .commitAt { s with ctrl := .scheduled r.key a }
  | abandon (hc : holderOf s.ctrl = some r.key) : Carried r s .abandon s.startMirror
  | clearFlow (i : FlowIx) : Carried r s .writeFlow (s.setFlow i (clearedFlow s.localTime))
  | armFlow (i : FlowIx) {m : FlowImage} (hm : flowImageOk m = true) :
      Carried r s .writeFlow (s.setFlow i (armedFlow (flowConfigOf m) s.localTime))
  | zeroFlow (i : FlowIx) : Carried r s .readFlow (s.setFlow i (zeroFlowCounters (s.flow i)))
  | configure (p : Port) {m : PortImage} (hm : portImageOk m = true)
      (hl : s.lockedOut r.port p (portConfigOf m) = false) : Carried r s .setPort (s.applyConfig p (portConfigOf m))
  | release (p : Port) (hq : (s.port p).isQuarantine = true) : Carried r s .releasePort ((s.endQuarantine p).settle s)
  | setNotices (c : NoticeConfig) : Carried r s .setNotices { s with notices := { s.notices with cfg := c } }
  | traffic : Carried r s .resetTraffic s.trafficReset
  | full : Carried r s .resetFull (s.fullReset r.buf)

/-- What a command does to a state, with the conditions under which the happening it names is taken. -/
inductive Happens (s : State) : Instr → State → Prop
  | nothing {c : Instr} : Happens s c s
  | powerOn (st : Straps) (lanes : PortSet) :
      Happens s (.powerOn st lanes) { State.powerOn st lanes with pending := s.pending }
  | resetHeld : Happens s .resetHeld { State.heldInReset s.straps with pending := s.pending }
  | received {c : Instr} (p : Port) (sym : Symbol) (hr : s.running = true)
      (hc : c ∈ [Instr.sofReceived p, .frameEnd p, .invalidSymbol p, .holdReceived p, .resumeReceived p]
        ∨ (∃ code, c = .trainingSymbol p code) ∨ (∃ d, c = .dataByteReceived p d) ∨ ∃ x, c = .receiveError p x) :
      Happens s c (s.receive p sym)
  | signalOn (p : Port) (hr : s.running = true) : Happens s (.signalDetected p) (s.signalOn p)
  | signalOff (p : Port) (hr : s.running = true) : Happens s (.signalLost p) (s.signalOff p)
  | holdExpiry (p : Port) (hr : s.running = true) (hd : s.holdExpiryDue p = true) :
      Happens s (.holdExpiry p) (s.setPort p { s.port p with link := clearHold (s.port p).link })
  | leak (p : Port) (hr : s.running = true) (hd : s.leakDue p = true) : Happens s (.leak p) (s.leakStep p)
  | quarantineEnd (p : Port) (hr : s.running = true) (hd : s.quarantineDue p = true) :
      Happens s (.quarantineEnd p) ((s.endQuarantine p).settle s)
  | holdRepeat {d : Instant} (hr : s.running = true) (hh : s.pool.hold = .holding d) (hd : s.passed d = true) :
      Happens s .holdRepeat
        (({ s with pool := { s.pool with hold := .holding (d + Config.holdRepeatSpacing) } }).sendToUp .hold)
  | selection (p : Port) (hr : s.running = true) : Happens s (.selection p) ((s.select p).settle s)
  | transmissionEnd (p : Port) {b : BufId} (hr : s.running = true) (ht : (s.port p).tx = some { buf := b, left := 0 }) :
      Happens s (.transmissionEnd p) ((s.endTransmission p { buf := b, left := 0 }).settle s)
  | deadlineExpiry (i : FlowIx) {d : Instant} (hr : s.running = true) (hd : s.expiredDeadline i = some d) :
      Happens s (.deadlineExpiry i) (s.expireFlow i d)
  | fillUp (i : FlowIx) (hr : s.running = true) (hd : s.fillUpDue i = true) :
      Happens s (.fillUp i) (s.setFlow i (fillUpFlow (s.flow i)))
  | leaseExpiry {k : Key} {n : Nat} {e : Instant} (hr : s.running = true) (hc : s.ctrl = .editing k n e)
      (hd : s.passed e = true) :
      Happens s .leaseExpiry (s.raise .leaseExpired (byteOf k.port) k.handle).startMirror
  | activation (hr : s.running = true) (hd : s.activationDue = true) : Happens s .activation s.swap
  | mirrorStep {k : Fin 65} {e : Instant} (hr : s.running = true) (hc : s.ctrl = .mirroring k e)
      (hd : s.passed (mirrorAt e k) = true) : Happens s .mirrorStep (s.mirrorCopy k e)
  | agentReady (hr : s.running = true) (hd : s.busyOver = true) :
      Happens s .agentReady { s with agent := { s.agent with busyUntil := none } }
  | entryExpiry (k : Key) (hr : s.running = true) :
      Happens s (.requesterEntryExpiry k) { s with agent := { s.agent with
        table := s.agent.table.filter fun e => !(e.key == k && s.entryExpired e) } }
  | malformed {r : Taken} (hd : s.takingDue = some .malformed) (hh : s.headRequest = some r) :
      Happens s .malformed (State.takeMalformed r s)
  | replay {r : Taken} (hd : s.takingDue = some .replay) (hh : s.headRequest = some r) :
      Happens s .replay (State.takeReplay r s)
  | carriedOut {row : Instr} {r : Taken} {cmd : Taken → State → Answer} (hd : s.takingDue = some row)
      (hh : s.headRequest = some r) (hc : Carried r (s.served r) row (cmd r (s.served r)).state) :
      Happens s row (s.carryOut cmd r)
  | build (hr : s.running = true) : Happens s .noticeBuild s.build

/-! ### The commands of the Agent -/

@[simp] theorem accept_state (s : State) (results : List Byte) : (s.accept results).state = s := rfl

theorem carried_refuse {r : Taken} {s : State} {row : Instr} (st : Status) : Carried r s row (s.refuse st).state := .same

theorem carried_checkLength {r : Taken} {s : State} {row : Instr} {n : Nat} {cmd : Taken → State → Answer}
    (h : Carried r s row (cmd r s).state) : Carried r s row (checkLength n cmd r s).state := by
  unfold checkLength
  split
  · exact h
  · exact .same

/-- The state and holder check of R28 lets through the holder alone, in EDITING, and for ABANDON in SCHEDULED too. -/
theorem editGate_none {c : Controller} {k : Key} {isAbandon : Bool} (h : editGate c k isAbandon = none) :
    (∃ d e, c = .editing k d e) ∨ (isAbandon = true ∧ ∃ a, c = .scheduled k a) := by
  unfold editGate at h
  cases c with
  | free => cases h
  | mirroring => cases h
  | editing k' d e =>
    dsimp only at h
    split at h
    · next hk => exact .inl ⟨d, e, by rw [hk]⟩
    · cases h
  | scheduled k' a =>
    dsimp only at h
    split at h
    · next hk =>
      split at h
      · next hab => exact .inr ⟨hab, a, by rw [hk]⟩
      · cases h
    · cases h

/-- A gated command does what it does for the holder in EDITING, or nothing (R28). -/
theorem carried_gated {r : Taken} {s : State} {row : Instr} {cmd : Taken → State → Answer}
    (h : ∀ d e, s.ctrl = .editing r.key d e → Carried r s row (cmd r s).state) :
    Carried r s row (gated false cmd r s).state := by
  unfold gated
  split
  · exact .same
  · next hg =>
    obtain ⟨d, e, hc⟩ | ⟨hab, _⟩ := editGate_none hg
    · exact h d e hc
    · cases hab

theorem carried_cmdReadCountersPort (r : Taken) (s : State) :
    Carried r s .readCountersPort (cmdReadCountersPort r s).state := by
  unfold cmdReadCountersPort
  split
  · next p clear _ _ =>
    split
    · cases clear with
      | true => exact .clearPort p
      | false => exact .same
    · exact .same
  · exact .same

theorem carried_cmdReadCountersPool (r : Taken) (s : State) :
    Carried r s .readCountersPool (cmdReadCountersPool r s).state := by
  unfold cmdReadCountersPool
  split
  · next clear _ =>
    split
    · cases clear with
      | true => exact .clearPool
      | false => exact .same
    · exact .same
  · exact .same

theorem carried_cmdReadCountersAgent (r : Taken) (s : State) :
    Carried r s .readCountersAgent (cmdReadCountersAgent r s).state := by
  unfold cmdReadCountersAgent
  split
  · next clear _ =>
    split
    · cases clear with
      | true => exact .clearAgent
      | false => exact .same
    · exact .same
  · exact .same

theorem carried_cmdReadCountersRules (r : Taken) (s : State) :
    Carried r s .readCountersRules (cmdReadCountersRules r s).state := by
  unfold cmdReadCountersRules
  dsimp only
  split
  · next clear _ =>
    split
    · cases clear with
      | true => exact .clearHits _ _
      | false => exact .same
    · exact .same
  · exact .same

theorem carried_cmdAdjustTime (r : Taken) (s : State) : Carried r s .adjustTime (cmdAdjustTime r s).state := by
  unfold cmdAdjustTime
  dsimp only
  split
  · exact .same
  · exact .adjust _

theorem carried_cmdOpenEdit (r : Taken) (s : State) : Carried r s .openEdit (cmdOpenEdit r s).state := by
  have hgrant : (s.ctrl = .free ∨ ∃ n e, s.ctrl = .editing r.key n e) →
      Carried r s .openEdit
        (if 1 ≤ (halfAt r.args 0).toNat ∧ (halfAt r.args 0).toNat ≤ 600 then
          (s.setLease r.key (halfAt r.args 0).toNat).acceptEdit
        else s.refuse .badArgument).state := by
    intro hmine
    split
    · next hd => exact .lease hmine hd.1 hd.2
    · exact .same
  unfold cmdOpenEdit
  dsimp only
  split
  · next hc => exact hgrant (.inl hc)
  · next k n e hc =>
    split
    · next hk => exact hgrant (.inr ⟨n, e, by rw [hc, hk]⟩)
    · exact .same
  · split <;> exact .same
  · exact .same

theorem carried_cmdWriteRule {r : Taken} {s : State} {d : Nat} {e : Instant} (hc : s.ctrl = .editing r.key d e) :
    Carried r s .writeRule (cmdWriteRule r s).state := by
  unfold cmdWriteRule
  dsimp only
  split
  · split
    · exact .write _ (by simp) hc
    · exact .same
  · exact .same

theorem carried_cmdClearRules {r : Taken} {s : State} {d : Nat} {e : Instant} (hc : s.ctrl = .editing r.key d e) :
    Carried r s .clearRules (cmdClearRules r s).state := by
  unfold cmdClearRules
  dsimp only
  split
  · exact .write _ (by simp) hc
  · exact .same

theorem carried_cmdWriteMiss {r : Taken} {s : State} {d : Nat} {e : Instant} (hc : s.ctrl = .editing r.key d e) :
    Carried r s .writeMiss (cmdWriteMiss r s).state := by
  unfold cmdWriteMiss
  split
  · exact .write _ (by simp) hc
  · exact .same

theorem carried_cmdReadRules (r : Taken) (s : State) : Carried r s .readRules (cmdReadRules r s).state := by
  unfold cmdReadRules
  dsimp only
  split
  · exact .same
  · split
    · exact .same
    · split
      · split
        · exact .renew
        · exact .same
      · exact .same

theorem carried_cmdCommitNow {r : Taken} {s : State} {d : Nat} {e : Instant} (hc : s.ctrl = .editing r.key d e) :
    Carried r s .commitNow (cmdCommitNow r s).state := by
  unfold cmdCommitNow
  split
  · exact .commit (by simp) hc
  · exact .same

theorem carried_cmdCommitAt {r : Taken} {s : State} {d : Nat} {e : Instant} (hc : s.ctrl = .editing r.key d e) :
    Carried r s .commitAt (cmdCommitAt r s).state := by
  unfold cmdCommitAt
  dsimp only
  split
  · exact .commit (by simp) hc
  · split
    · exact .schedule _ hc
    · exact .same

theorem carried_cmdAbandon (r : Taken) (s : State) : Carried r s .abandon (gated true cmdAbandon r s).state := by
  unfold gated
  split
  · exact .same
  · next hg =>
    obtain ⟨d, e, hc⟩ | ⟨_, a, hc⟩ := editGate_none hg
    · exact .abandon (by rw [hc]; rfl)
    · exact .abandon (by rw [hc]; rfl)

theorem carried_cmdWriteFlow (r : Taken) (s : State) : Carried r s .writeFlow (cmdWriteFlow r s).state := by
  unfold cmdWriteFlow
  dsimp only
  split
  · split
    · exact .clearFlow _
    · split
      · next hm => exact .armFlow _ hm.2
      · exact .same
  · exact .same

theorem carried_cmdReadFlow (r : Taken) (s : State) : Carried r s .readFlow (cmdReadFlow r s).state := by
  unfold cmdReadFlow
  split
  · next i clear _ _ =>
    cases clear with
    | true => exact .zeroFlow i
    | false => exact .same
  · exact .same

theorem carried_cmdSetPort (r : Taken) (s : State) : Carried r s .setPort (cmdSetPort r s).state := by
  unfold cmdSetPort
  dsimp only
  split
  · next p _ =>
    split
    · next hm =>
      split
      · exact .same
      · next hl =>
        have hopen : s.lockedOut r.port p (portConfigOf (portImageOf (r.args.drop 1))) = false := by
          rw [← Bool.not_eq_true]
          exact hl
        rw [accept_state]
        exact .configure p hm hopen
    · exact .same
  · exact .same

theorem carried_cmdReadPort (r : Taken) (s : State) : Carried r s .readPort (cmdReadPort r s).state := by
  unfold cmdReadPort
  split <;> exact .same

theorem carried_cmdReleasePort (r : Taken) (s : State) : Carried r s .releasePort (cmdReleasePort r s).state := by
  unfold cmdReleasePort
  split
  · split
    · next hq => exact .release _ hq
    · exact .same
  · exact .same

theorem carried_cmdSetNotices (r : Taken) (s : State) : Carried r s .setNotices (cmdSetNotices r s).state := by
  unfold cmdSetNotices
  dsimp only
  split
  · split
    · exact .setNotices _
    · exact .same
  · exact .same

theorem carried_cmdResetTraffic (r : Taken) (s : State) : Carried r s .resetTraffic (cmdResetTraffic r s).state := by
  unfold cmdResetTraffic
  split
  · exact .traffic
  · exact .same

theorem carried_cmdResetFull (r : Taken) (s : State) : Carried r s .resetFull (cmdResetFull r s).state := by
  unfold cmdResetFull
  split
  · exact .full
  · exact .same

/-! ### Every command -/

theorem running_of_takingDue {s : State} {c : Instr} (h : s.takingDue = some c) : s.running = true := by
  unfold State.takingDue at h
  split at h
  · next hr => exact (Bool.and_eq_true _ _ ▸ hr).1
  · cases h

/-- A taking acts on the request at the head of the queue, or changes nothing (log 4). -/
theorem happens_taking {s : State} {row : Instr} {act : Taken → State → State}
    (h : ∀ r, s.headRequest = some r → s.takingDue = some row → Happens s row (act r s)) :
    Happens s row (s.taking row act) := by
  unfold State.taking
  split
  · next r hr =>
    split
    · next hd => exact h r hr hd
    · exact .nothing
  · exact .nothing

theorem happens_carryOut {s : State} {row : Instr} {cmd : Taken → State → Answer}
    (h : ∀ r u, Carried r u row (cmd r u).state) : Happens s row (s.taking row (State.carryOut cmd)) :=
  happens_taking fun r hh hd => .carriedOut hd hh (h r _)

theorem happens_receive (s : State) {c : Instr} (p : Port) (sym : Symbol)
    (hc : c ∈ [Instr.sofReceived p, .frameEnd p, .invalidSymbol p, .holdReceived p, .resumeReceived p]
      ∨ (∃ code, c = .trainingSymbol p code) ∨ (∃ d, c = .dataByteReceived p d) ∨ ∃ x, c = .receiveError p x) :
    Happens s c (s.receive p sym) := by
  by_cases hr : s.running = true
  · exact .received p sym hr hc
  · have hs : s.receive p sym = s := by unfold State.receive; rw [if_neg hr]
    rw [hs]
    exact .nothing

/-- A happening taken when its condition holds, and nothing else. -/
theorem happens_if {s t : State} {c : Instr} {P : Prop} [Decidable P] (h : P → Happens s c t) :
    Happens s c (if P then t else s) := by
  split
  · next hp => exact h hp
  · exact .nothing

theorem happens_if_and {s t : State} {c : Instr} {a b : Bool} (h : a = true → b = true → Happens s c t) :
    Happens s c (if a && b then t else s) :=
  happens_if fun hab => h ((Bool.and_eq_true _ _).mp hab).1 ((Bool.and_eq_true _ _).mp hab).2

/-- Every command makes the happening it names, or changes nothing. -/
theorem happens_of_exec {c : Instr} {s t : State} (h : exec c s = .next t) : Happens s c t := by
  cases c with
  | powerOn st lanes => cases h; exact .powerOn st lanes
  | resetHeld => cases h; exact .resetHeld
  | signalDetected p => cases h; exact happens_if (.signalOn p)
  | signalLost p => cases h; exact happens_if (.signalOff p)
  | trainingSymbol p code => cases h; exact happens_receive s p _ (.inr (.inl ⟨code, rfl⟩))
  | sofReceived p => cases h; exact happens_receive s p _ (by simp)
  | dataByteReceived p d => cases h; exact happens_receive s p _ (.inr (.inr (.inl ⟨d, rfl⟩)))
  | frameEnd p => cases h; exact happens_receive s p _ (by simp)
  | receiveError p x => cases h; exact happens_receive s p _ (.inr (.inr (.inr ⟨x, rfl⟩)))
  | invalidSymbol p => cases h; exact happens_receive s p _ (by simp)
  | holdReceived p => cases h; exact happens_receive s p _ (by simp)
  | resumeReceived p => cases h; exact happens_receive s p _ (by simp)
  | holdExpiry p => cases h; exact happens_if_and (.holdExpiry p)
  | leak p => cases h; exact happens_if_and (.leak p)
  | quarantineEnd p => cases h; exact happens_if_and (.quarantineEnd p)
  | holdRepeat =>
    cases h
    split
    · next d hh =>
      exact happens_if_and fun hr hd => .holdRepeat hr hh hd
    · exact .nothing
  | selection p => cases h; exact happens_if (.selection p)
  | transmissionEnd p =>
    cases h
    split
    · next x hx =>
      refine happens_if_and fun hr hl => ?_
      obtain ⟨b, n⟩ := x
      obtain rfl := eq_of_beq hl
      exact .transmissionEnd p hr hx
    · exact .nothing
  | deadlineExpiry i =>
    cases h
    split
    · next d hd => exact happens_if fun hr => .deadlineExpiry i hr hd
    · exact .nothing
  | fillUp i => cases h; exact happens_if_and (.fillUp i)
  | leaseExpiry =>
    cases h
    split
    · next k n e hk =>
      exact happens_if_and fun hr hd => .leaseExpiry hr hk hd
    · exact .nothing
  | activation => cases h; exact happens_if_and .activation
  | mirrorStep =>
    cases h
    split
    · next k e hk =>
      exact happens_if_and fun hr hd => .mirrorStep hr hk hd
    · exact .nothing
  | agentReady => cases h; exact happens_if_and .agentReady
  | requesterEntryExpiry k => cases h; exact happens_if (.entryExpiry k)
  | malformed => cases h; exact happens_taking fun r hh hd => .malformed hd hh
  | replay => cases h; exact happens_taking fun r hh hd => .replay hd hh
  | unknownCommand => cases h; exact happens_carryOut fun _ _ => carried_refuse _
  | identify => cases h; exact happens_carryOut fun _ _ => carried_checkLength .same
  | readCountersPort => cases h; exact happens_carryOut fun r u => carried_checkLength (carried_cmdReadCountersPort r u)
  | readCountersPool => cases h; exact happens_carryOut fun r u => carried_checkLength (carried_cmdReadCountersPool r u)
  | readCountersAgent => cases h; exact happens_carryOut fun r u => carried_checkLength (carried_cmdReadCountersAgent r u)
  | readCountersRules => cases h; exact happens_carryOut fun r u => carried_checkLength (carried_cmdReadCountersRules r u)
  | adjustTime => cases h; exact happens_carryOut fun r u => carried_checkLength (carried_cmdAdjustTime r u)
  | openEdit => cases h; exact happens_carryOut fun r u => carried_checkLength (carried_cmdOpenEdit r u)
  | writeRule =>
    cases h; exact happens_carryOut fun _ _ => carried_checkLength (carried_gated fun _ _ hc => carried_cmdWriteRule hc)
  | clearRules =>
    cases h; exact happens_carryOut fun _ _ => carried_checkLength (carried_gated fun _ _ hc => carried_cmdClearRules hc)
  | writeMiss =>
    cases h; exact happens_carryOut fun _ _ => carried_checkLength (carried_gated fun _ _ hc => carried_cmdWriteMiss hc)
  | readRules => cases h; exact happens_carryOut fun r u => carried_checkLength (carried_cmdReadRules r u)
  | commitNow =>
    cases h; exact happens_carryOut fun _ _ => carried_checkLength (carried_gated fun _ _ hc => carried_cmdCommitNow hc)
  | commitAt =>
    cases h; exact happens_carryOut fun _ _ => carried_checkLength (carried_gated fun _ _ hc => carried_cmdCommitAt hc)
  | abandon => cases h; exact happens_carryOut fun r u => carried_checkLength (carried_cmdAbandon r u)
  | writeFlow => cases h; exact happens_carryOut fun r u => carried_checkLength (carried_cmdWriteFlow r u)
  | readFlow => cases h; exact happens_carryOut fun r u => carried_checkLength (carried_cmdReadFlow r u)
  | setPort => cases h; exact happens_carryOut fun r u => carried_checkLength (carried_cmdSetPort r u)
  | readPort => cases h; exact happens_carryOut fun r u => carried_checkLength (carried_cmdReadPort r u)
  | releasePort => cases h; exact happens_carryOut fun r u => carried_checkLength (carried_cmdReleasePort r u)
  | setNotices => cases h; exact happens_carryOut fun r u => carried_checkLength (carried_cmdSetNotices r u)
  | resetTraffic => cases h; exact happens_carryOut fun r u => carried_checkLength (carried_cmdResetTraffic r u)
  | resetFull => cases h; exact happens_carryOut fun r u => carried_checkLength (carried_cmdResetFull r u)
  | noticeBuild => cases h; exact happens_if .build

theorem exec_next (c : Instr) (s : State) : ∃ t, exec c s = .next t := by
  cases c <;> exact ⟨_, rfl⟩

/-! ### Every step -/

/-- A step makes a command's happening, the command taken from the queue or due of itself, or lets a symbol time pass. -/
theorem step_cases {s t : State} (h : step s = .next t) :
    (∃ c rest, s.pending = c :: rest ∧ Happens { s with pending := rest } c t) ∨ (∃ c, s.due = some c ∧ Happens s c t)
      ∨ t = s.tick := by
  unfold step at h
  split at h
  · next c rest hp => exact .inl ⟨c, rest, hp, happens_of_exec h⟩
  · unfold State.idle at h
    split at h
    · next c hd => exact .inr (.inl ⟨c, hd, happens_of_exec h⟩)
    · cases h
      exact .inr (.inr rfl)

/-- What does not read the queue of commands, and what every happening and every symbol time keeps, every step keeps. -/
theorem kept_by_step {P : State → Prop} (hpending : ∀ s cs, P s → P { s with pending := cs })
    (hhappens : ∀ c s t, Happens s c t → P s → P t) (htick : ∀ s, P s → P s.tick) :
    ∀ s t, P s → step s = .next t → P t := by
  intro s t hs h
  obtain ⟨c, rest, _, hc⟩ | ⟨c, _, hc⟩ | rfl := step_cases h
  · exact hhappens c _ t hc (hpending s rest hs)
  · exact hhappens c s t hc hs
  · exact htick s hs

end Sys2Proof.Happenings
end

section
/-! What a received symbol can do, as a sequence of strokes at one port, and what becomes of a frame that ends good. Each
stroke is one operation of the receiver or the link, with the state of the port in which it is made. -/

namespace Sys2Proof.Happenings
open Sys2Proof.Machine

/-! ### A frame handed to the Classifier (R43 to R58) -/

/-- The frame has been shown to what its lookup hit: nothing, or an entry whose hit is counted and whose flow observes
it (R18, R52). -/
inductive Shown (s : State) : State → Prop
  | missed : Shown s s
  | hit (i : RulePos) (flow : Option FlowIx) (h : Header) (forward : Bool) :
      Shown s ((s.bumpHit i).flowHandOff flow h forward).1

/-- What becomes of a frame at the Classifier: captured, lost to a full request queue, dropped and counted, or sent. -/
inductive Classified (s : State) (f : FrameEnd) : State → Prop
  | captured (hq : s.agent.queue.length < Config.requestPlaces) :
      Classified s f { s with agent := { s.agent with queue := s.agent.queue ++ [{ buf := f.buf, port := f.port }] } }
  | lost : Classified s f (State.dropRef { s with agent := { s.agent with counters :=
      { s.agent.counters with overflow := s.agent.counters.overflow + 1 } } } f.buf)
  | dropped {u : State} (hu : Shown s u) (count : PortCounters → PortCounters) : Classified s f (u.dropFrame f count)
  | sent {u : State} (hu : Shown s u) (set : PortSet) (prio : Prio) (tag : Tag) :
      Classified s f (u.sendCopies f set prio tag)

theorem classified_capture (s : State) (f : FrameEnd) : Classified s f (s.capture f) := by
  unfold State.capture
  split
  · split
    · next hq => exact .captured hq
    · exact .lost
  · exact .dropped .missed _

theorem classified_applyEntry (s : State) (f : FrameEnd) (i : RulePos) (e : RuleEntry) :
    Classified s f ((s.bumpHit i).applyEntry f e) := by
  unfold State.applyEntry
  have hshown := Shown.hit (s := s) i e.flow f.header
  split
  · exact .dropped (hshown false) _
  · next set newPrio rewrite _ =>
    specialize hshown true
    generalize (s.bumpHit i).flowHandOff e.flow f.header true = o at hshown
    obtain ⟨u, v⟩ := o
    cases v with
    | pass => exact .sent hshown _ _ _
    | demote => exact .sent hshown _ _ _
    | drop => exact .dropped hshown _

theorem classified_classify (s : State) (f : FrameEnd) : Classified s f (s.classify f) := by
  unfold State.classify
  split
  · exact classified_capture s f
  · split
    · exact .dropped .missed _
    · split
      · exact classified_applyEntry s f _ _
      · exact .dropped .missed _
      · exact .sent .missed _ _ _

/-! ### Strokes -/

/-- The port receives frames: it is UP or in QUARANTINE (R125, R126). -/
def PortRec.receives (x : PortRec) : Prop := x.isUp = true ∨ x.isQuarantine = true

/-- One operation that a symbol received on port `p` can make, where it can make it. -/
inductive Stroke (p : Port) (s : State) : State → Prop
  | train {n : Nat} (m : Nat) (hl : (s.port p).link = .training n) :
      Stroke p s (s.setPort p { s.port p with link := .training m })
  | goUp {n : Nat} (hl : (s.port p).link = .training n) : Stroke p s (s.enterUp p)
  | relink (run : Nat) (held : Option Instant) (hu : (s.port p).isUp = true) :
      Stroke p s (s.setPort p { s.port p with link := .up run held })
  | loseLock (hu : (s.port p).isUp = true) : Stroke p s ((s.loseLock p).settle s)
  | delimiter (hx : (s.port p).rx.inside = none) : Stroke p s (s.setPort p { s.port p with rx := .idle })
  | beginFrame (hp : PortRec.receives (s.port p)) (hx : (s.port p).rx.inside = none) : Stroke p s (s.beginFrame p)
  | error {b : Option BufId} {l : List Byte} (e : RxError) {rx : Reception} (hp : PortRec.receives (s.port p))
      (hx : (s.port p).rx.inside = some (b, l)) (hrx : rx.inside = none) : Stroke p s (s.rxError p b e rx)
  | noBufferByte {l : List Byte} (d : Byte) (hp : PortRec.receives (s.port p))
      (hx : (s.port p).rx.inside = some (none, l)) :
      Stroke p s (s.setPort p { s.port p with rx := .frame none (l ++ [d]) })
  | byte {b : BufId} {l : List Byte} (d : Byte) (hp : PortRec.receives (s.port p))
      (hx : (s.port p).rx = .frame (some b) l) :
      Stroke p s ((s.setPort p { s.port p with rx := .frame (some b) (l ++ [d]) }).writeByte b d)
  | discarded {b : Option BufId} {l : List Byte} (hp : PortRec.receives (s.port p))
      (hx : (s.port p).rx.inside = some (b, l)) :
      Stroke p s (((s.setPort p { s.port p with
        rx := .idle, counters := countDiscard (s.port p).isQuarantine b.isSome (s.port p).counters }).dropRef? b).settle s)
  | classified {b : BufId} {l : List Byte} {t : State} (hu : (s.port p).isUp = true)
      (hx : (s.port p).rx = .frame (some b) l)
      (ht : Classified
        (s.setPort p { s.port p with
          rx := .idle, counters := { (s.port p).counters with rxGood := (s.port p).counters.rxGood + 1 } })
        { port := p, buf := b, bytes := l, header := headerOf l } t) : Stroke p s (t.settle s)
  | classifiedAnew {b : BufId} {l : List Byte} {u t : State} (hu : (s.port p).isUp = true)
      (hx : (s.port p).rx = .stripped l) (ha : s.alloc Config.ingressNeed = some (b, u))
      (ht : Classified
        ((u.writeFrame b l).setPort p { u.port p with
          rx := .idle, counters := { (u.port p).counters with rxGood := (u.port p).counters.rxGood + 1 } })
        { port := p, buf := b, bytes := l, header := headerOf l } t) : Stroke p s (t.settle (u.writeFrame b l))

/-- What a received symbol does: strokes one after the other. -/
abbrev Strokes (p : Port) : State → State → Prop := Relation.ReflTransGen (Stroke p)

theorem Strokes.one {p : Port} {s t : State} (h : Stroke p s t) : Strokes p s t := .single h

/-! ### A receive error keeps the port receiving -/

theorem scored_receives {x : PortRec} (hu : x.isUp = true) (u : NoticeUnit) (p : Port) (w : Nat) (now time : Instant) :
    PortRec.receives (scored x u p w now time).1 := by
  unfold scored
  dsimp only
  split
  · exact .inr rfl
  · exact .inl hu

theorem rxError_receives {s : State} {p : Port} (hp : PortRec.receives (s.port p)) (b : Option BufId) (e : RxError)
    (rx : Reception) : PortRec.receives ((s.rxError p b e rx).port p) := by
  obtain hu | hq := hp
  · rw [(rxError_up hu b e rx).own]
    exact scored_receives (x := errorCounted (s.port p) b e rx) hu _ _ _ _ _
  · rw [(rxError_quarantine hq b e rx).own]
    exact .inr hq

theorem flushed_rx (x : PortRec) : (flushed x).rx = x.rx := rfl

theorem quarantined_rx (x : PortRec) (e : Instant) : (quarantined x e).rx = x.rx := by
  unfold quarantined
  dsimp only
  split <;> rfl

theorem scored_rx (x : PortRec) (u : NoticeUnit) (p : Port) (w : Nat) (now time : Instant) :
    (scored x u p w now time).1.rx = x.rx := by
  unfold scored
  dsimp only
  split
  · rw [quarantined_rx]
    rfl
  · rfl

theorem rxError_rx {s : State} {p : Port} (hp : PortRec.receives (s.port p)) (b : Option BufId) (e : RxError)
    (rx : Reception) : ((s.rxError p b e rx).port p).rx = rx := by
  obtain hu | hq := hp
  · rw [(rxError_up hu b e rx).own]
    exact scored_rx (errorCounted (s.port p) b e rx) _ _ _ _ _
  · rw [(rxError_quarantine hq b e rx).own]
    rfl

/-! ### The receiver's symbols -/

/-- A good end in UP of a frame that stands in a buffer (R43, R125). -/
theorem goodEnd_classify {s : State} {p : Port} (hu : (s.port p).isUp = true) (b : BufId) (l : List Byte) :
    s.goodEnd p (some b) l =
      ((s.setPort p { s.port p with
        rx := .idle, counters := { (s.port p).counters with rxGood := (s.port p).counters.rxGood + 1 } }).classify
          { port := p, buf := b, bytes := l, header := headerOf l }).settle s := by
  unfold State.goodEnd
  dsimp only
  rw [hu]

/-- A good end that hands nothing to the Classifier (R128). -/
theorem goodEnd_discard {s : State} {p : Port} {b : Option BufId} (h : (s.port p).isUp = false ∨ b = none)
    (l : List Byte) :
    s.goodEnd p b l =
      ((s.setPort p { s.port p with
        rx := .idle, counters := countDiscard (s.port p).isQuarantine b.isSome (s.port p).counters }).dropRef?
          b).settle s := by
  unfold State.goodEnd
  dsimp only
  obtain hup | rfl := h
  · rw [hup]
  · cases (s.port p).isUp <;> rfl

/-- An allocation hands HOLD to the ports at most (R102). -/
theorem alloc_isUp {s t : State} {n : Nat} {b : BufId} (h : s.alloc n = some (b, t)) (p : Port) :
    (t.port p).isUp = (s.port p).isUp := by
  obtain ⟨_, _, rfl⟩ := alloc_some h
  rw [decideAtAlloc_port]
  rfl

section
variable {s : State} {p : Port} {b : Option BufId} {l : List Byte}

theorem strokes_rxByte (hp : PortRec.receives (s.port p)) (hx : (s.port p).rx.inside = some (b, l)) (d : Byte) :
    Strokes p s (s.rxByte p b l d) := by
  unfold State.rxByte
  split
  · exact .one (.error _ hp hx rfl)
  · cases b with
    | none => exact .one (.noBufferByte d hp hx)
    | some c =>
      have hframe : (s.port p).rx = .frame (some c) l := by
        cases hrx : (s.port p).rx with
        | idle => rw [hrx] at hx; cases hx
        | ignoring => rw [hrx] at hx; cases hx
        | stripped m => rw [hrx] at hx; cases hx
        | frame o m => rw [hrx] at hx; cases hx; rfl
      exact .one (.byte d hp hframe)

theorem strokes_goodEnd_discard (hp : PortRec.receives (s.port p)) (hx : (s.port p).rx.inside = some (b, l))
    (hb : (s.port p).isUp = false ∨ b = none) : Strokes p s (s.goodEnd p b l) := by
  rw [goodEnd_discard hb]
  exact .one (.discarded hp hx)

theorem strokes_rxEof (hp : PortRec.receives (s.port p)) (hx : (s.port p).rx = .frame b l) :
    Strokes p s (s.rxEof p b l) := by
  have hin : (s.port p).rx.inside = some (b, l) := by rw [hx]; rfl
  unfold State.rxEof
  split
  · exact .one (.error _ hp hin rfl)
  · cases hup : (s.port p).isUp with
    | false => exact strokes_goodEnd_discard hp hin (.inl hup)
    | true =>
      cases b with
      | none => exact strokes_goodEnd_discard hp hin (.inr rfl)
      | some c =>
        rw [goodEnd_classify hup]
        exact .one (.classified hup hx (classified_classify _ _))

theorem strokes_rxEofStripped (hp : PortRec.receives (s.port p)) (hx : (s.port p).rx = .stripped l) :
    Strokes p s (s.rxEofStripped p l) := by
  have hin : (s.port p).rx.inside = some (none, l) := by rw [hx]; rfl
  unfold State.rxEofStripped
  split
  · exact .one (.error _ hp hin rfl)
  · split
    · next c u hup ha =>
      have hup' : ((u.writeFrame c l).port p).isUp = true := (alloc_isUp ha p).trans hup
      rw [goodEnd_classify hup']
      exact .one (.classifiedAnew hup hx ha (classified_classify _ _))
    · exact strokes_goodEnd_discard hp hin (.inr rfl)

theorem strokes_frameSymbolOutside (hp : PortRec.receives (s.port p)) (hx : (s.port p).rx.inside = none)
    (sym : Symbol) : Strokes p s (s.frameSymbolOutside p sym) := by
  cases sym with
  | sof => exact .one (.beginFrame hp hx)
  | eof => exact .one (.delimiter hx)
  | idle => exact .one (.delimiter hx)
  | align => exact .one (.delimiter hx)
  | data d => exact .refl
  | hold => exact .refl
  | resume => exact .refl
  | invalid => exact .refl

/-- A symbol other than EOF inside a frame, its buffer there or not. -/
theorem strokes_frameSymbolInside (hp : PortRec.receives (s.port p)) (hx : (s.port p).rx.inside = some (b, l))
    {sym : Symbol} (hs : sym ≠ .eof) : Strokes p s (s.frameSymbolInside p b l sym) := by
  cases sym with
  | data d => exact strokes_rxByte hp hx d
  | eof => exact absurd rfl hs
  | idle => exact .one (.error _ hp hx rfl)
  | align => exact .one (.error _ hp hx rfl)
  | sof =>
    have hrx : ((s.rxError p b .runt .idle).port p).rx.inside = none := by rw [rxError_rx hp]; rfl
    exact (Strokes.one (.error _ hp hx rfl)).tail (.beginFrame (rxError_receives hp b .runt .idle) hrx)
  | invalid => exact .one (.error _ hp hx rfl)
  | hold => exact .refl
  | resume => exact .refl

theorem strokes_delimit (hp : PortRec.receives (s.port p)) (sym : Symbol) : Strokes p s (s.delimit p sym) := by
  unfold State.delimit
  split
  · next b l hx =>
    have hin : (s.port p).rx.inside = some (b, l) := by rw [hx]; rfl
    by_cases hs : sym = .eof
    · subst hs
      exact strokes_rxEof hp hx
    · exact strokes_frameSymbolInside hp hin hs
  · next l hx =>
    have hin : (s.port p).rx.inside = some (none, l) := by rw [hx]; rfl
    unfold State.frameSymbolStripped
    split
    · exact strokes_rxEofStripped hp hx
    · next hs => exact strokes_frameSymbolInside hp hin hs
  · next hx => exact strokes_frameSymbolOutside hp (by rw [hx]; rfl) sym
  · next hx => exact strokes_frameSymbolOutside hp (by rw [hx]; rfl) sym

theorem strokes_countInvalid (s : State) (p : Port) : Strokes p s (s.countInvalid p) := by
  unfold State.countInvalid
  split
  · next run held hl =>
    have hu : (s.port p).isUp = true := by unfold PortRec.isUp; rw [hl]
    split
    · exact .one (.loseLock hu)
    · exact .one (.relink _ _ hu)
  · exact .refl

theorem strokes_receiveTraining {n : Nat} (hl : (s.port p).link = .training n) (sym : Symbol) :
    Strokes p s (s.receiveTraining p n sym) := by
  unfold State.receiveTraining
  split
  · split
    · exact .one (.goUp hl)
    · exact .one (.train _ hl)
  · exact .one (.train _ hl)

theorem strokes_receiveUp (hu : (s.port p).isUp = true) (held : Option Instant) (sym : Symbol) :
    Strokes p s (s.receiveUp p held sym) := by
  have hrun : ∀ h, Strokes p s (s.partnerHold p h) := fun h => .one (.relink 0 h hu)
  have hlater : ∀ sym, Strokes p s ((s.partnerHold p held).delimit p sym) := fun sym =>
    (hrun held).trans (strokes_delimit (by rw [State.partnerHold, State.port_setPort_same]; exact .inl rfl) sym)
  cases sym with
  | invalid => exact (strokes_delimit (.inl hu) _).trans (strokes_countInvalid _ p)
  | hold => exact hrun _
  | resume => exact hrun _
  | _ => exact hlater _

/-- A symbol received is strokes at its port (R119 to R127, R137). -/
theorem strokes_receive (s : State) (p : Port) (sym : Symbol) : Strokes p s (s.receive p sym) := by
  unfold State.receive
  split
  · split
    · exact .refl
    · exact .refl
    · next n hl => exact strokes_receiveTraining hl sym
    · next run held hl => exact strokes_receiveUp (by unfold PortRec.isUp; rw [hl]) held sym
    · next e hl => exact strokes_delimit (.inr (by unfold PortRec.isQuarantine; rw [hl])) sym
  · exact .refl

/-- What every stroke keeps, every received symbol keeps. -/
theorem kept_by_receive {P : State → Prop} (p : Port) (hstroke : ∀ s t, Stroke p s t → P s → P t) {s : State}
    (hs : P s) (sym : Symbol) : P (s.receive p sym) := by
  have hstrokes := strokes_receive s p sym
  generalize s.receive p sym = t at hstrokes
  induction hstrokes with
  | refl => exact hs
  | tail _ hst ih => exact hstroke _ _ hst ih

end

end Sys2Proof.Happenings
end

section
/-! The frames of the operations: what each leaves alone, whatever state it is used in (06, 07, 08, 10). -/

namespace Sys2Proof.Frames
open Sys2Proof.Machine Sys2Proof.Happenings

/-! ### Operations that touch the ports, the pool and the notices alone -/

theorem sameButLinks_of_alloc {s t : State} {n : Nat} {b : BufId} (h : s.alloc n = some (b, t)) : s.sameButLinks t := by
  obtain ⟨_, _, rfl⟩ := alloc_some h
  exact sameButLinks_trans (takeBuffer_sameButLinks s b) (decideAtAlloc_sameButLinks _)

theorem beginFrame_sameButLinks (s : State) (p : Port) : s.sameButLinks (s.beginFrame p) := by
  unfold State.beginFrame
  split
  · split
    · next b t ha => exact sameButLinks_trans (sameButLinks_of_alloc ha) (setPort_sameButLinks t p _)
    · exact setPort_sameButLinks s p _
  · exact setPort_sameButLinks s p _

theorem dropFrame_sameButLinks (s : State) (f : FrameEnd) (count : PortCounters → PortCounters) :
    s.sameButLinks (s.dropFrame f count) := rfl

theorem offerCopy_sameButLinks (s : State) (e : QueueEntry) (q : Port) : s.sameButLinks (s.offerCopy e q) := by
  unfold State.offerCopy
  split <;> rfl

theorem offerCopies_sameButLinks (s : State) (e : QueueEntry) (qs : List Port) :
    s.sameButLinks (qs.foldl (fun t q => t.offerCopy e q) s) := by
  induction qs generalizing s with
  | nil => rfl
  | cons q qs ih => exact sameButLinks_trans (offerCopy_sameButLinks s e q) (ih _)

theorem sendCopies_sameButLinks (s : State) (f : FrameEnd) (set : PortSet) (prio : Prio) (tag : Tag) :
    s.sameButLinks (s.sendCopies f set prio tag) := by
  unfold State.sendCopies
  dsimp only
  split
  · exact dropFrame_sameButLinks s f _
  · split
    · exact sameButLinks_trans (offerCopies_sameButLinks s _ _) (dropRef_sameButLinks _ _)
    · exact sameButLinks_trans (offerCopies_sameButLinks s _ _) (setBuf_sameButLinks _ _ _)

theorem loseLock_sameButLinks (s : State) (p : Port) : s.sameButLinks (s.loseLock p) :=
  sameButLinks_trans (leaveUp_sameButLinks s p _) (enterTraining_sameButLinks _ p)

theorem signalOn_sameButLinks (s : State) (p : Port) : s.sameButLinks (s.signalOn p) := by
  unfold State.signalOn
  dsimp only
  split
  · exact sameButLinks_trans (setPort_sameButLinks s p _) (enterTraining_sameButLinks _ p)
  all_goals rfl

theorem runtAtSignalLoss_sameButLinks (s : State) (p : Port) : s.sameButLinks (s.runtAtSignalLoss p) := by
  unfold State.runtAtSignalLoss
  split
  · exact sameButLinks_trans (sameButLinks_trans (setPort_sameButLinks s p _) (dropRef?_sameButLinks _ _))
      (scoreRise_sameButLinks _ _ _)
  · rfl

theorem discardAtSignalLoss_sameButLinks (s : State) (p : Port) : s.sameButLinks (s.discardAtSignalLoss p) := by
  unfold State.discardAtSignalLoss
  split
  · exact sameButLinks_trans (setPort_sameButLinks s p _) (dropRef?_sameButLinks _ _)
  · rfl

theorem resumeLeak_sameButLinks (s : State) (p : Port) : s.sameButLinks (s.resumeLeak p) := rfl

theorem signalOff_sameButLinks (s : State) (p : Port) : s.sameButLinks (s.signalOff p) := by
  unfold State.signalOff
  dsimp only
  have hsignal := setPort_sameButLinks s p { s.port p with signal := false }
  split
  · rfl
  · rfl
  · rfl
  · exact sameButLinks_trans (sameButLinks_trans (sameButLinks_trans hsignal (leaveUp_sameButLinks _ p _))
      (runtAtSignalLoss_sameButLinks _ p)) (settle_sameButLinks _ s)
  · exact sameButLinks_trans (sameButLinks_trans (sameButLinks_trans (sameButLinks_trans hsignal
      (discardAtSignalLoss_sameButLinks _ p)) (setPort_sameButLinks _ p _)) (resumeLeak_sameButLinks _ p))
      (settle_sameButLinks _ s)

theorem leakStep_sameButLinks (s : State) (p : Port) : s.sameButLinks (s.leakStep p) :=
  sameButLinks_trans (setPort_sameButLinks s p _) (warnedTest_sameButLinks _ p)

theorem flushPorts_sameButLinks (s : State) (ps : List Port) : s.sameButLinks (ps.foldl State.flushPort s) := by
  induction ps generalizing s with
  | nil => rfl
  | cons p ps ih => exact sameButLinks_trans (flushPort_sameButLinks s p) (ih _)

theorem flushAll_sameButLinks (s : State) : s.sameButLinks s.flushAll :=
  sameButLinks_trans (flushPorts_sameButLinks s _) (settle_sameButLinks _ s)

theorem applyConfig_sameButLinks (s : State) (p : Port) (c : PortConfig) : s.sameButLinks (s.applyConfig p c) := by
  have h := (released_applyConfig s p c).rest
  generalize s.applyConfig p c = t at h
  unfold State.sameButLinks
  have hn : t.notices = (configured (s.port p) c s.notices p s.localTime s.cellTime).2.1 := by rw [h]
  rw [hn]
  exact h

theorem build_sameButLinks (s : State) : s.sameButLinks s.build := by
  unfold State.build
  split
  · split
    · next b t ha =>
      refine sameButLinks_trans (sameButLinks_of_alloc ha) ?_
      rfl
    · rfl
  · rfl

/-- The sending of a reply touches the Agent beside the ports, the pool and the notices (R154). -/
theorem sendReply_frame (s : State) (r : Taken) (payload : List Byte) :
    ∃ c : AgentCounters, (s.sendReply r payload).agent = { s.agent with counters := c }
      ∧ s.sendReply r payload = { s with
          agent := (s.sendReply r payload).agent, ports := (s.sendReply r payload).ports
          pool := (s.sendReply r payload).pool, notices := (s.sendReply r payload).notices } := by
  unfold State.sendReply
  split
  · have h := settle_sameButLinks (s.countReplyDropped.dropRef r.buf) s
    generalize (s.countReplyDropped.dropRef r.buf).settle s = t at h
    refine ⟨s.countReplyDropped.agent.counters, ?_, ?_⟩
    · rw [h]; rfl
    · rw [h]; rfl
  · next b u ha =>
    have hu := sameButLinks_of_alloc ha
    dsimp only
    split
    · have h := settle_sameButLinks (((u.writeFrame b (replyFrame r payload)).enqueue r.port
        { buf := b, prio := r.prio, time := (u.writeFrame b (replyFrame r payload)).localTime, origin := .reply }).dropRef
          r.buf) u
      refine ⟨s.agent.counters, ?_, ?_⟩
      · rw [h, hu]; rfl
      · rw [h, hu]; rfl
    · have h := settle_sameButLinks (((u.writeFrame b (replyFrame r payload)).countReplyDropped.dropRef b).dropRef r.buf) u
      refine ⟨u.countReplyDropped.agent.counters, ?_, ?_⟩
      · rw [h, hu]; rfl
      · rw [h, hu]; rfl

/-! ### A received symbol touches neither the clock nor the Bank Controller (07, 03) -/

/-- `t` differs from `s` at most in what traffic moves: the ports, the pool, the hit counters, the flows, the Agent and
the Notice Unit. -/
def sameButTraffic (s t : State) : Prop :=
  t = { s with ports := t.ports, pool := t.pool, hits := t.hits, flows := t.flows, agent := t.agent, notices := t.notices }

theorem sameButTraffic_refl (s : State) : sameButTraffic s s := rfl

theorem sameButTraffic_trans {s t u : State} (h : sameButTraffic s t) (k : sameButTraffic t u) :
    sameButTraffic s u := by
  unfold sameButTraffic at *
  rw [k, h]

theorem sameButTraffic_of_links {s t : State} (h : s.sameButLinks t) : sameButTraffic s t := by
  unfold sameButTraffic
  rw [h]

/-- The hand-off to a flow touches that flow and the notices (R52). -/
theorem flowHandOff_frame (s : State) (flow : Option FlowIx) (h : Header) (forward : Bool) :
    (s.flowHandOff flow h forward).1 = { s with
      flows := (s.flowHandOff flow h forward).1.flows, notices := (s.flowHandOff flow h forward).1.notices } := by
  unfold State.flowHandOff
  split
  · rfl
  · dsimp only
    split <;> rfl

theorem shown_frame {s u : State} (h : Shown s u) :
    u = { s with hits := u.hits, flows := u.flows, notices := u.notices } := by
  cases h with
  | missed => rfl
  | hit i flow h forward =>
    rw [flowHandOff_frame]
    rfl

theorem shown_sameButTraffic {s u : State} (h : Shown s u) : sameButTraffic s u := by
  unfold sameButTraffic
  rw [shown_frame h]

theorem classified_sameButTraffic {s t : State} {f : FrameEnd} (h : Classified s f t) : sameButTraffic s t := by
  cases h with
  | captured => rfl
  | lost => rfl
  | dropped hu count =>
    exact sameButTraffic_trans (shown_sameButTraffic hu) (sameButTraffic_of_links (dropFrame_sameButLinks _ f count))
  | sent hu set prio tag =>
    exact sameButTraffic_trans (shown_sameButTraffic hu)
      (sameButTraffic_of_links (sendCopies_sameButLinks _ f set prio tag))

/-- A stroke that hands no frame to the Classifier touches the ports, the pool and the notices alone. -/
theorem stroke_frame {p : Port} {s t : State} (h : Stroke p s t) : s.sameButLinks t
    ∨ ∃ u v w f, s.sameButLinks u ∧ Classified u f v ∧ t = v.settle w := by
  cases h with
  | train | relink | delimiter | noBufferByte => exact .inl (setPort_sameButLinks s p _)
  | goUp => exact .inl (enterUp_sameButLinks s p)
  | loseLock => exact .inl (sameButLinks_trans (loseLock_sameButLinks s p) (settle_sameButLinks _ s))
  | beginFrame => exact .inl (beginFrame_sameButLinks s p)
  | error => exact .inl (rxError_sameButLinks s p _ _ _)
  | byte => exact .inl (sameButLinks_trans (setPort_sameButLinks s p _) (setBuf_sameButLinks _ _ _))
  | discarded =>
    exact .inl (sameButLinks_trans (sameButLinks_trans (setPort_sameButLinks s p _) (dropRef?_sameButLinks _ _))
      (settle_sameButLinks _ s))
  | classified _ _ ht => exact .inr ⟨_, _, _, _, setPort_sameButLinks s p _, ht, rfl⟩
  | classifiedAnew _ _ ha ht =>
    exact .inr ⟨_, _, _, _, sameButLinks_trans (sameButLinks_of_alloc ha)
      (sameButLinks_trans (setBuf_sameButLinks _ _ _) (setPort_sameButLinks _ p _)), ht, rfl⟩

/-- What links do not touch and the Classifier keeps, every received symbol keeps. -/
theorem kept_by_receive_of_classified {P : State → Prop} (hlinks : ∀ s t, s.sameButLinks t → P s → P t)
    (hclassified : ∀ s t f, Classified s f t → P s → P t) {s : State} (p : Port) (hs : P s) (sym : Symbol) :
    P (s.receive p sym) := by
  refine kept_by_receive p (fun s t hst h => ?_) hs sym
  obtain hl | ⟨u, v, w, f, hu, hv, rfl⟩ := stroke_frame hst
  · exact hlinks s t hl h
  · exact hlinks _ _ (settle_sameButLinks v w) (hclassified u v f hv (hlinks s u hu h))

theorem receive_sameButTraffic (s : State) (p : Port) (sym : Symbol) : sameButTraffic s (s.receive p sym) :=
  kept_by_receive_of_classified (P := sameButTraffic s)
    (fun _ _ hl h => sameButTraffic_trans h (sameButTraffic_of_links hl))
    (fun _ _ _ hc h => sameButTraffic_trans h (classified_sameButTraffic hc)) p (sameButTraffic_refl s) sym

/-! ### Operations of the Bank Controller touch no port, buffer or flow (02) -/

theorem startMirror_frame (s : State) :
    s.startMirror = { s with agent := s.startMirror.agent, ctrl := .mirroring 0 s.localTime } := by
  unfold State.startMirror
  dsimp only
  split <;> rfl

theorem renew_frame (s : State) (k : Key) : s.renew k = { s with ctrl := (s.renew k).ctrl } := by
  unfold State.renew
  split
  · split <;> rfl
  · rfl

theorem swap_frame (s : State) :
    s.swap = { s with
      active := s.shadow, hits := Vector.replicate 64 0, ctrl := .mirroring 0 s.localTime
      agent := s.swap.agent, notices := s.swap.notices } := by
  unfold State.swap
  dsimp only
  split
  · rw [startMirror_frame]
    rfl
  · rw [startMirror_frame]

theorem adjustOffset_frame (s : State) (step : BitVec 32) :
    s.adjustOffset step = { s with
      offset := s.offset + step, active := (s.adjustOffset step).active, hits := (s.adjustOffset step).hits
      ctrl := (s.adjustOffset step).ctrl, agent := (s.adjustOffset step).agent
      notices := (s.adjustOffset step).notices } := by
  unfold State.adjustOffset
  dsimp only
  split
  · rw [swap_frame]
  · rfl

theorem mirrorCopy_frame (s : State) (k : Fin 65) (e : Instant) :
    s.mirrorCopy k e = { s with banks := (s.mirrorCopy k e).banks, ctrl := (s.mirrorCopy k e).ctrl } := by
  unfold State.mirrorCopy
  split <;> rfl

theorem startMirror_flows (s : State) : s.startMirror.flows = s.flows := by rw [startMirror_frame]
theorem renew_flows (s : State) (k : Key) : (s.renew k).flows = s.flows := by rw [renew_frame]
theorem swap_flows (s : State) : s.swap.flows = s.flows := by rw [swap_frame]
theorem adjustOffset_flows (s : State) (step : BitVec 32) : (s.adjustOffset step).flows = s.flows := by
  rw [adjustOffset_frame]
theorem mirrorCopy_flows (s : State) (k : Fin 65) (e : Instant) : (s.mirrorCopy k e).flows = s.flows := by
  rw [mirrorCopy_frame]

/-- What does not read the flows, TRAFFIC keeps when the flush of every queue does (R84, R116). -/
theorem kept_by_trafficReset {P : State → Prop} (hflows : ∀ u flows, P u → P { u with flows := flows }) {s : State}
    (h : P s.flushAll) : P s.trafficReset := by
  unfold State.trafficReset
  exact hflows s.flushAll _ h

/-! ### Takings: the Agent's part first, then the reply (R146 to R155) -/

/-- The Agent once a request under 3 bytes has been taken (R147). -/
def malformedAgent (s : State) : Agent :=
  { s.agent with
    queue := s.agent.queue.tail
    busyUntil := some (s.localTime + 10)
    counters := { s.agent.counters with
      requestsTaken := s.agent.counters.requestsTaken + 1, malformed := s.agent.counters.malformed + 1 } }

theorem takeMalformed_eq (s : State) (r : Taken) :
    State.takeMalformed r s = (State.dropRef { s with agent := malformedAgent s } r.buf).settle s := rfl

/-- The Agent of a retry whose entry is served again (R148, R155). -/
def replayAgent (s : State) (r : Taken) : Agent :=
  { (s.served r).agent with counters :=
    { (s.served r).agent.counters with replay := (s.served r).agent.counters.replay + 1 } }

theorem takeReplay_eq {s : State} {r : Taken} {e : Requester} (h : s.requester r.key = some e) :
    State.takeReplay r s = State.sendReply { s with agent := replayAgent s r } r e.reply := by
  unfold State.takeReplay
  rw [h]
  rfl

theorem takeReplay_none {s : State} {r : Taken} (h : s.requester r.key = none) : State.takeReplay r s = s := by
  unfold State.takeReplay
  rw [h]

/-- The reply payload of a command carried out (R153). -/
def replyOf (cmd : Taken → State → Answer) (r : Taken) (s : State) : List Byte :=
  replyPayload r (cmd r (s.served r)).status (cmd r (s.served r)).results

theorem carryOut_eq (s : State) (cmd : Taken → State → Answer) (r : Taken) :
    s.carryOut cmd r
      = State.sendReply { (cmd r (s.served r)).state with
          agent := ((cmd r (s.served r)).state.storeReply r.key r.seq (replyOf cmd r s)).agent } r (replyOf cmd r s) := rfl

/-- What does not read the Agent, what every command keeps where it is carried out, and every sending of a reply, every
taking of a command keeps. -/
theorem kept_by_carryOut {P : State → Prop} (hagent : ∀ u a, P u → P { u with agent := a })
    (hcarried : ∀ r u v row, Carried r u row v → P u → P v) (hreply : ∀ u r payload, P u → P (u.sendReply r payload))
    {s : State} {r : Taken} {row : Instr} {cmd : Taken → State → Answer} (hs : P s)
    (hc : Carried r (s.served r) row (cmd r (s.served r)).state) : P (s.carryOut cmd r) := by
  rw [carryOut_eq]
  refine hreply _ r _ (hagent _ _ (hcarried r _ _ row hc ?_))
  rw [served_eq]
  exact hagent s _ hs

theorem kept_by_takeReplay {P : State → Prop} (hagent : ∀ u a, P u → P { u with agent := a })
    (hreply : ∀ u r payload, P u → P (u.sendReply r payload)) {s : State} (r : Taken) (hs : P s) :
    P (State.takeReplay r s) := by
  cases h : s.requester r.key with
  | none => rwa [takeReplay_none h]
  | some e =>
    rw [takeReplay_eq h]
    exact hreply _ r _ (hagent s _ hs)

end Sys2Proof.Frames
end

section
/-! The part's lines, its clock and its course with an empty queue: what no command touches, what RESET_N low silences,
and what a happening commanded out of its time leaves (00, 11, 95). -/

namespace Sys2Proof.Course
open Sys2Proof.Machine Sys2Proof.Happenings Sys2Proof.Frames

/-! ### The clock's registers (R21, R64, R65, R157) -/

/-- Neither the RESET line's registers, nor local time, nor the queue of commands change. -/
structure Timed (s t : State) : Prop where
  running : t.running = s.running
  straps : t.straps = s.straps
  localTime : t.localTime = s.localTime
  phase : t.phase = s.phase
  pending : t.pending = s.pending

/-- Beside those, neither the offset nor the active bank changes. -/
structure Within (s t : State) : Prop extends Timed s t where
  offset : t.offset = s.offset
  active : t.active = s.active
  activeBank : t.activeBank = s.activeBank

theorem Timed.trans {s t u : State} (h : Timed s t) (k : Timed t u) : Timed s u :=
  ⟨k.running.trans h.running, k.straps.trans h.straps, k.localTime.trans h.localTime, k.phase.trans h.phase,
    k.pending.trans h.pending⟩

theorem Within.refl (s : State) : Within s s := ⟨⟨rfl, rfl, rfl, rfl, rfl⟩, rfl, rfl, rfl⟩

theorem Within.trans {s t u : State} (h : Within s t) (k : Within t u) : Within s u :=
  ⟨h.toTimed.trans k.toTimed, k.offset.trans h.offset, k.active.trans h.active, k.activeBank.trans h.activeBank⟩

theorem within_of_links {s t : State} (h : s.sameButLinks t) : Within s t := by
  rw [h]
  exact ⟨⟨rfl, rfl, rfl, rfl, rfl⟩, rfl, rfl, rfl⟩

theorem within_receive (s : State) (p : Port) (sym : Symbol) : Within s (s.receive p sym) := by
  rw [receive_sameButTraffic s p sym]
  exact ⟨⟨rfl, rfl, rfl, rfl, rfl⟩, rfl, rfl, rfl⟩

theorem within_expireFlow (s : State) (i : FlowIx) (d : Instant) : Within s (s.expireFlow i d) := by
  unfold State.expireFlow
  dsimp only
  split <;> exact ⟨⟨rfl, rfl, rfl, rfl, rfl⟩, rfl, rfl, rfl⟩

theorem within_startMirror (s : State) : Within s s.startMirror := by
  unfold State.startMirror
  dsimp only
  split <;> exact ⟨⟨rfl, rfl, rfl, rfl, rfl⟩, rfl, rfl, rfl⟩

theorem within_setShadow (s : State) (b : Bank) : Within s (s.setShadow b) :=
  ⟨⟨rfl, rfl, rfl, rfl, rfl⟩, rfl, rfl, s.activeBank_setShadow b⟩

theorem within_renew (s : State) (k : Key) : Within s (s.renew k) := by
  unfold State.renew
  split
  · split <;> exact ⟨⟨rfl, rfl, rfl, rfl, rfl⟩, rfl, rfl, rfl⟩
  · exact .refl s

theorem within_mirrorCopy (s : State) (k : Fin 65) (e : Instant) : Within s (s.mirrorCopy k e) := by
  unfold State.mirrorCopy
  split
  · exact (within_setShadow s _).trans ⟨⟨rfl, rfl, rfl, rfl, rfl⟩, rfl, rfl, rfl⟩
  · exact (within_setShadow s _).trans ⟨⟨rfl, rfl, rfl, rfl, rfl⟩, rfl, rfl, rfl⟩

/-- A swap changes the active bank, but nothing of the clock (R33). -/
theorem timed_swap (s : State) : Timed s s.swap ∧ s.swap.offset = s.offset := by
  unfold State.swap
  dsimp only
  split
  · have h := within_startMirror (State.raise { s with active := s.shadow, hits := Vector.replicate 64 0 } .commitDone
      (byteOf s.shadow) (Key.handle ‹_›))
    exact ⟨⟨h.running, h.straps, h.localTime, h.phase, h.pending⟩, h.offset⟩
  · have h := within_startMirror { s with active := s.shadow, hits := Vector.replicate 64 0 }
    exact ⟨⟨h.running, h.straps, h.localTime, h.phase, h.pending⟩, h.offset⟩

theorem timed_adjustOffset (s : State) (step : BitVec 32) : Timed s (s.adjustOffset step) := by
  unfold State.adjustOffset
  dsimp only
  split
  · have h := (timed_swap { s with offset := s.offset + step }).1
    exact ⟨h.running, h.straps, h.localTime, h.phase, h.pending⟩
  · exact ⟨rfl, rfl, rfl, rfl, rfl⟩

theorem within_sendReply (s : State) (r : Taken) (payload : List Byte) : Within s (s.sendReply r payload) := by
  obtain ⟨_, _, h⟩ := sendReply_frame s r payload
  rw [h]
  exact ⟨⟨rfl, rfl, rfl, rfl, rfl⟩, rfl, rfl, rfl⟩

/-- The commands that can change the active bank (R21). -/
def swaps (c : Instr) : Prop := c ∈ [Instr.adjustTime, .commitNow, .commitAt, .activation, .resetFull]

/-- What a command keeps of the clock: all but the offset for ADJUST_TIME, and the active bank for a swap's commands and
FULL. -/
structure Clocked (c : Instr) (s t : State) : Prop extends Timed s t where
  offset : c ≠ .adjustTime → t.offset = s.offset
  active : ¬ swaps c → t.active = s.active ∧ t.activeBank = s.activeBank

theorem Within.clocked {s t : State} (h : Within s t) (c : Instr) : Clocked c s t :=
  ⟨h.toTimed, fun _ => h.offset, fun _ => ⟨h.active, h.activeBank⟩⟩

theorem clocked_of_fields {s t : State} {c : Instr} (hrunning : t.running = s.running) (hstraps : t.straps = s.straps)
    (htime : t.localTime = s.localTime) (hphase : t.phase = s.phase) (hpending : t.pending = s.pending)
    (hoffset : t.offset = s.offset) (hactive : t.active = s.active) (hbanks : t.banks = s.banks) : Clocked c s t :=
  ⟨⟨hrunning, hstraps, htime, hphase, hpending⟩, fun _ => hoffset,
    fun _ => ⟨hactive, by unfold State.activeBank; rw [hbanks, hactive]⟩⟩

theorem within_clearHits (s : State) (first count : Byte) : Within s (s.clearHits first count) :=
  ⟨⟨s.clearHits_running first count, s.clearHits_straps first count, s.clearHits_localTime first count,
    s.clearHits_phase first count, s.clearHits_pending first count⟩, s.clearHits_offset first count,
    s.clearHits_active first count, by unfold State.activeBank; rw [State.clearHits_banks, State.clearHits_active]⟩

theorem Clocked.of_swap {s t : State} {c : Instr} (h : Timed s t ∧ t.offset = s.offset) (hc : swaps c) :
    Clocked c s t := ⟨h.1, fun _ => h.2, fun hn => absurd hc hn⟩

theorem within_trafficReset (s : State) : Within s s.trafficReset :=
  kept_by_trafficReset (P := Within s) (fun _ _ h => ⟨⟨h.running, h.straps, h.localTime, h.phase, h.pending⟩, h.offset,
    h.active, h.activeBank⟩) (within_of_links (flushAll_sameButLinks s))

theorem clocked_carried {r : Taken} {s t : State} {row : Instr} (h : Carried r s row t) : Clocked row s t := by
  cases h with
  | same => exact (Within.refl s).clocked _
  | clearPort p => exact (within_of_links (setPort_sameButLinks s p _)).clocked _
  | clearPool => exact clocked_of_fields rfl rfl rfl rfl rfl rfl rfl rfl
  | clearAgent => exact clocked_of_fields rfl rfl rfl rfl rfl rfl rfl rfl
  | clearHits first count => exact (within_clearHits s first count).clocked _
  | adjust step => exact ⟨timed_adjustOffset s step, fun hn => absurd rfl hn, fun hn => absurd (by simp [swaps]) hn⟩
  | lease => exact clocked_of_fields rfl rfl rfl rfl rfl rfl rfl rfl
  | write b => exact ((within_setShadow s b).trans (within_renew _ _)).clocked _
  | renew => exact (within_renew s _).clocked _
  | commit hrow => exact .of_swap (timed_swap s) (by unfold swaps; simp only [List.mem_cons] at hrow ⊢; tauto)
  | schedule => exact clocked_of_fields rfl rfl rfl rfl rfl rfl rfl rfl
  | abandon => exact (within_startMirror s).clocked _
  | clearFlow => exact clocked_of_fields rfl rfl rfl rfl rfl rfl rfl rfl
  | armFlow => exact clocked_of_fields rfl rfl rfl rfl rfl rfl rfl rfl
  | zeroFlow => exact clocked_of_fields rfl rfl rfl rfl rfl rfl rfl rfl
  | configure p => exact (within_of_links (applyConfig_sameButLinks s p _)).clocked _
  | release p =>
    exact (within_of_links (sameButLinks_trans (endQuarantine_sameButLinks s p) (settle_sameButLinks _ s))).clocked _
  | setNotices => exact clocked_of_fields rfl rfl rfl rfl rfl rfl rfl rfl
  | traffic =>
    exact (within_trafficReset s).clocked _
  | full => exact .of_swap ⟨⟨rfl, rfl, rfl, rfl, rfl⟩, rfl⟩ (by simp [swaps])

theorem Clocked.within_trans {c : Instr} {s t u v : State} (h : Within s t) (k : Clocked c t u) (l : Within u v) :
    Clocked c s v :=
  ⟨(h.toTimed.trans k.toTimed).trans l.toTimed, fun hn => (l.offset.trans (k.offset hn)).trans h.offset,
    fun hn => ⟨(l.active.trans (k.active hn).1).trans h.active,
      (l.activeBank.trans (k.active hn).2).trans h.activeBank⟩⟩

theorem clocked_carryOut {r : Taken} {s : State} {row : Instr} {cmd : Taken → State → Answer}
    (h : Carried r (s.served r) row (cmd r (s.served r)).state) : Clocked row s (s.carryOut cmd r) := by
  have hserved : Within s (s.served r) := ⟨⟨rfl, rfl, rfl, rfl, rfl⟩, rfl, rfl, rfl⟩
  refine Clocked.within_trans hserved (clocked_carried h) (.trans ?stored (within_sendReply _ r _))
  exact ⟨⟨rfl, rfl, rfl, rfl, rfl⟩, rfl, rfl, rfl⟩

theorem clocked_of_happens {c : Instr} {s t : State} (h : Happens s c t) (hheld : c ≠ .resetHeld)
    (hon : ∀ st lanes, c ≠ .powerOn st lanes) : Clocked c s t := by
  cases h with
  | nothing => exact (Within.refl s).clocked _
  | powerOn st lanes => exact absurd rfl (hon st lanes)
  | resetHeld => exact absurd rfl hheld
  | received p sym => exact (within_receive s p sym).clocked _
  | signalOn p => exact (within_of_links (signalOn_sameButLinks s p)).clocked _
  | signalOff p => exact (within_of_links (signalOff_sameButLinks s p)).clocked _
  | holdExpiry p => exact (within_of_links (setPort_sameButLinks s p _)).clocked _
  | leak p => exact (within_of_links (leakStep_sameButLinks s p)).clocked _
  | quarantineEnd p =>
    exact (within_of_links (sameButLinks_trans (endQuarantine_sameButLinks s p) (settle_sameButLinks _ s))).clocked _
  | holdRepeat => exact clocked_of_fields rfl rfl rfl rfl rfl rfl rfl rfl
  | selection p =>
    exact (within_of_links (sameButLinks_trans (select_sameButLinks s p) (settle_sameButLinks _ s))).clocked _
  | transmissionEnd p =>
    exact (within_of_links (sameButLinks_trans (endTransmission_sameButLinks s p _) (settle_sameButLinks _ s))).clocked _
  | deadlineExpiry i => exact (within_expireFlow s i _).clocked _
  | fillUp i => exact clocked_of_fields rfl rfl rfl rfl rfl rfl rfl rfl
  | leaseExpiry =>
    refine Within.clocked (.trans ?_ (within_startMirror _)) _
    exact ⟨⟨rfl, rfl, rfl, rfl, rfl⟩, rfl, rfl, rfl⟩
  | activation => exact .of_swap (timed_swap s) (by simp [swaps])
  | mirrorStep => exact (within_mirrorCopy s _ _).clocked _
  | agentReady => exact clocked_of_fields rfl rfl rfl rfl rfl rfl rfl rfl
  | entryExpiry => exact clocked_of_fields rfl rfl rfl rfl rfl rfl rfl rfl
  | malformed =>
    refine Within.clocked (.trans ?_ (within_of_links (settle_sameButLinks _ s))) _
    exact ⟨⟨rfl, rfl, rfl, rfl, rfl⟩, rfl, rfl, rfl⟩
  | replay =>
    unfold State.takeReplay
    split
    · refine Within.clocked (.trans ?_ (within_sendReply _ _ _)) _
      exact ⟨⟨rfl, rfl, rfl, rfl, rfl⟩, rfl, rfl, rfl⟩
    · exact (Within.refl s).clocked _
  | carriedOut _ _ hc => exact clocked_carryOut hc
  | build => exact (within_of_links (build_sameButLinks s)).clocked _

/-- Settles O2: every command answers; what it does is one of `Happens`, each of which keeps the clock as `Clocked`
says, and the RESET line's two keep the queue of commands. -/
theorem everyCommandAnswersAndKeepsTheClock : Obligations.EveryCommandAnswersAndKeepsTheClock := by
  refine ⟨fun c s => ?answers, fun c s t h hheld hon => ?keeps⟩
  case answers =>
    obtain ⟨t, ht⟩ := exec_next c s
    refine ⟨t, ht, ?_⟩
    cases c with
    | powerOn => cases ht; rfl
    | resetHeld => cases ht; rfl
    | _ => exact (clocked_of_happens (happens_of_exec ht) Instr.noConfusion fun _ _ => Instr.noConfusion).pending
  case keeps =>
    have hclock := clocked_of_happens (happens_of_exec h) hheld hon
    refine ⟨hclock.running, hclock.straps, hclock.localTime, hclock.phase, hclock.offset, ?_⟩
    intro h1 h2 h3 h4 h5
    exact hclock.active (by simp [swaps, h1, h2, h3, h4, h5])

end Sys2Proof.Course
end

section
/-! The lines and lanes, RESET_N, and the part's own course with an empty queue (04, 10, 11, 95; log 1, log 4, log 5). -/

namespace Sys2Proof.Course
open Sys2Proof.Machine Sys2Proof.Happenings Sys2Proof.Frames

/-- Settles O1: `step` on a queue that is not empty is `exec` by definition. -/
theorem stepRunsTheFrontCommand : Obligations.StepRunsTheFrontCommand := fun _ _ _ => rfl

/-! ### Power-on and RESET_N low (R204) -/

theorem freeCount_eq_of_all_free {s : State} (h : ∀ b, (s.buf b).refs = 0) : s.freeCount = 96 := by
  have hcount : (List.finRange 96).countP (fun b => (s.pool.bufs.get b).refs == 0) = (List.finRange 96).length :=
    List.countP_eq_length.2 fun b _ => beq_iff_eq.2 (h b)
  exact hcount.trans (List.length_finRange)

theorem powerOn_port (st : Straps) (lanes : PortSet) (p : Port) :
    (State.powerOn st lanes).port p = initialPort st lanes p := get_ofFn _ p

theorem powerOn_buf (st : Straps) (lanes : PortSet) (b : BufId) : (State.powerOn st lanes).buf b = freeBuffer :=
  get_replicate freeBuffer b

theorem powerOn_flow (st : Straps) (lanes : PortSet) (i : FlowIx) : (State.powerOn st lanes).flow i = clearedFlow 0 :=
  get_replicate (clearedFlow 0) i

theorem powerOn_freeCount (st : Straps) (lanes : PortSet) : (State.powerOn st lanes).freeCount = 96 :=
  freeCount_eq_of_all_free fun b => by rw [powerOn_buf]; rfl

/-- Settles O4: the registers of `State.powerOn` one by one, its tables uniform; those of the banks are O5's. -/
theorem powerOnSetsEveryBlock : Obligations.PowerOnSetsEveryBlock := by
  intro st lanes s
  obtain ⟨t, ht, hctrl, hactive, hentries, hmiss, hhits, _⟩ := BankController.powerOnLeavesTheBanksCleared st lanes s
  cases ht
  exact ⟨_, rfl, rfl, rfl, rfl, rfl, rfl, rfl, hctrl, hactive, hentries, hmiss, hhits, powerOn_port st lanes,
    powerOn_buf st lanes, powerOn_freeCount st lanes, rfl, rfl, rfl, powerOn_flow st lanes, rfl, rfl⟩

/-- A part that does not run takes no happening but the RESET line's two. -/
theorem happens_of_not_running {c : Instr} {s t : State} (hr : s.running = false) (h : Happens s c t)
    (hheld : c ≠ .resetHeld) (hon : ∀ st lanes, c ≠ .powerOn st lanes) : t = s := by
  have hrunning : s.running ≠ true := by rw [hr]; exact Bool.false_ne_true
  cases h with
  | nothing => rfl
  | powerOn st lanes => exact absurd rfl (hon st lanes)
  | resetHeld => exact absurd rfl hheld
  | malformed hd | replay hd | carriedOut hd => exact absurd (running_of_takingDue hd) hrunning
  | _ => contradiction

theorem due_of_not_running {s : State} (hr : s.running = false) : s.due = none := by
  unfold State.due
  rw [hr]
  rfl

/-- Settles O6: the lines read `running`, and every happening but the line's own two needs it. -/
theorem nothingHappensInReset : Obligations.NothingHappensInReset := by
  refine ⟨fun s => ⟨_, rfl, rfl, rfl, rfl, rfl, rfl, fun _ => rfl⟩, fun c s hr hheld hon => ⟨?_, due_of_not_running hr⟩⟩
  obtain ⟨t, ht⟩ := exec_next c s
  rw [ht, happens_of_not_running hr (happens_of_exec ht) hheld hon]

/-! ### FAULT and the transmit lanes (R105, R118, R195) -/

theorem anyQuarantine_iff (s : State) : s.anyQuarantine = true ↔ ∃ p, (s.port p).isQuarantine = true := by
  unfold State.anyQuarantine
  simp

theorem anyLost_iff (s : State) : s.anyLost = true ↔ ∃ i, (s.flow i).state = .lost := by
  unfold State.anyLost
  simp

theorem faultN_iff {s : State} (hr : s.running = true) :
    s.faultN = false ↔ (∃ p, (s.port p).isQuarantine = true) ∨ ∃ i, (s.flow i).state = .lost := by
  unfold State.faultN State.faultAsserted
  rw [hr, Bool.true_and, Bool.not_eq_false', Bool.or_eq_true, anyQuarantine_iff, anyLost_iff]

theorem frameSymbol_sof (wire : List Byte) : frameSymbol wire (wire.length + 2) = .sof := by
  unfold frameSymbol
  rw [if_neg (by omega), if_pos rfl]

theorem frameSymbol_eof (wire : List Byte) : frameSymbol wire 1 = .eof := if_pos rfl

/-- With `k` bytes to come behind it, the byte sent is the `k`-th from the end. -/
theorem frameSymbol_data (wire : List Byte) {k : Nat} (hk : k < wire.length) :
    frameSymbol wire (k + 2) = .data (byteAt wire (wire.length - 1 - k)) := by
  unfold frameSymbol byteAt
  rw [if_neg (by omega), if_neg (by omega), show wire.length + 1 - (k + 2) = wire.length - 1 - k by omega]

/-- Settles O8: FAULT and the lanes are functions of the state, read off by the port's state and what it has to send. -/
theorem theLinesShowTheState : Obligations.TheLinesShowTheState := by
  intro s hr
  refine ⟨faultN_iff hr, fun p => ⟨?disabled, ?align, ?idle, fun hu => ?up⟩⟩
  case disabled =>
    intro hl
    unfold State.txSymbol
    rw [if_pos hr, hl]
  case align =>
    intro h
    unfold State.txSymbol
    rw [if_pos hr]
    obtain hl | ht := h
    · rw [hl]
    · unfold PortRec.isTraining at ht
      split at ht
      · next hl => rw [hl]
      · cases ht
  case idle =>
    intro hq
    obtain ⟨e, hl⟩ := isQuarantine_link hq
    unfold State.txSymbol
    rw [if_pos hr, hl]
  case up =>
    obtain ⟨run, held, hl⟩ := isUp_link hu
    unfold State.txSymbol
    rw [if_pos hr, hl]
    dsimp only
    refine ⟨fun cs hc => by rw [hc], fun cs hc => by rw [hc], fun hc ht => by rw [hc, ht], fun x hc ht => ?_⟩
    rw [hc, ht]
    dsimp only
    refine ⟨fun hl => ?_, fun hl => ?_, fun k hk hl => ?_⟩
    · rw [if_neg (by omega), hl, frameSymbol_sof]
    · rw [if_neg (by omega), hl, frameSymbol_eof]
    · rw [if_neg (by omega), hl, frameSymbol_data _ hk]

/-! ### Happenings out of their time (log 4) -/

theorem taking_of_not_due {s : State} {row : Instr} (act : Taken → State → State) (h : s.takingDue ≠ some row) :
    s.taking row act = s := by
  unfold State.taking
  split
  · exact if_neg h
  · rfl

theorem select_of_not_canSelect {s : State} {p : Port} (h : (s.port p).canSelect = false) : s.select p = s := by
  unfold State.select
  rw [h]
  rfl

theorem settle_self (s : State) : s.settle s = s := settle_same (lt_irrefl _)

/-- With no timer of the Bank Controller run out, none of its three happenings is taken. -/
theorem bank_happenings_of_not_due {s : State} (h : s.bankDue = none) :
    execLeaseExpiry s = .next s ∧ execActivation s = .next s ∧ execMirrorStep s = .next s := by
  unfold State.bankDue at h
  unfold execLeaseExpiry execActivation execMirrorStep State.activationDue
  cases hc : s.ctrl with
  | free => simp
  | editing k d e => simp_all
  | scheduled k a => simp_all [State.activationDue]
  | mirroring k e => simp_all

/-- Settles O7: each command's meaning is a test of what the hypothesis denies. -/
theorem whatIsNotDueChangesNothing : Obligations.WhatIsNotDueChangesNothing := by
  intro p i s
  refine ⟨?leak, ?holdExpiry, ?quarantineEnd, ?selection, ?transmissionEnd, ?deadline, ?fillUp, ?bank, ?repeats, ?ready,
    ?takings⟩
  case leak => intro h; simp [exec, execLeak, h]
  case holdExpiry => intro h; simp [exec, execHoldExpiry, h]
  case quarantineEnd => intro h; simp [exec, execQuarantineEnd, h]
  case selection => intro h; simp [exec, execSelection, select_of_not_canSelect h, settle_self]
  case transmissionEnd =>
    intro h
    unfold State.transmissionOver at h
    show execTransmissionEnd p s = _
    unfold execTransmissionEnd
    split
    · next t ht =>
      rw [ht] at h
      simp [show (t.left == 0) = false from h]
    · rfl
  case deadline => intro h; simp [exec, execDeadlineExpiry, h]
  case fillUp => intro h; simp [exec, execFillUp, h]
  case bank =>
    intro h c hc
    obtain ⟨hlease, hactivation, hmirror⟩ := bank_happenings_of_not_due h
    simp only [List.mem_cons, List.not_mem_nil, or_false] at hc
    obtain rfl | rfl | rfl := hc
    · exact hlease
    · exact hactivation
    · exact hmirror
  case repeats =>
    intro h
    unfold State.poolDue at h
    show execHoldRepeat s = _
    unfold execHoldRepeat
    split
    · next d hd => simp_all
    · rfl
  case ready => intro h; simp [exec, execAgentReady, h]
  case takings =>
    intro c hc h
    simp only [List.mem_cons, List.not_mem_nil, or_false] at hc
    rcases hc with rfl | rfl | rfl | rfl | rfl | rfl | rfl | rfl | rfl | rfl | rfl | rfl | rfl | rfl | rfl | rfl | rfl
      | rfl | rfl | rfl | rfl | rfl | rfl | rfl | rfl
    all_goals exact congrArg Host.Outcome.next (taking_of_not_due _ h)

/-! ### With an empty queue (R64, R105, R111) -/

theorem tick_port {s : State} (hr : s.running = true) (p : Port) : s.tick.port p = (s.port p).symbolTime := by
  unfold State.tick
  rw [if_pos hr]
  exact get_ofFn _ p

theorem tick_eq {s : State} (hr : s.running = true) :
    s.tick = { s with ports := s.tick.ports, localTime := s.tick.localTime, phase := s.tick.phase } := by
  unfold State.tick
  rw [if_pos hr]

theorem tick_of_not_running {s : State} (hr : s.running = false) : s.tick = s := by
  unfold State.tick
  rw [hr]
  rfl

theorem tick_clock {s : State} (hr : s.running = true) :
    (s.phase < 49 → s.tick.phase = s.phase + 1 ∧ s.tick.localTime = s.localTime)
      ∧ (49 ≤ s.phase → s.tick.phase = 0 ∧ s.tick.localTime = s.localTime + 1) := by
  unfold State.tick
  rw [if_pos hr]
  refine ⟨fun h => ?_, fun h => ?_⟩
  · have hn : ¬ Config.symbolsPerMicro ≤ s.phase + 1 := by simp only [Config.symbolsPerMicro]; omega
    exact ⟨if_neg hn, if_neg hn⟩
  · have hy : Config.symbolsPerMicro ≤ s.phase + 1 := by simp only [Config.symbolsPerMicro]; omega
    exact ⟨if_pos hy, if_pos hy⟩

/-- One symbol time at a port, by its state and what its transmitter has to send (R105). -/
theorem symbolTime_cases (x : PortRec) :
    (x.isUp = false → x.symbolTime = x)
      ∧ (x.isUp = true →
        (∀ c cs, x.ctl = c :: cs → x.symbolTime = { x with ctl := cs, rx := x.rx.later })
        ∧ (x.ctl = [] → ∀ t, x.tx = some t →
            x.symbolTime = { x with tx := some { t with left := t.left - 1 }, rx := x.rx.later })
        ∧ (x.ctl = [] → x.tx = none → x.symbolTime = { x with rx := x.rx.later })) := by
  unfold PortRec.symbolTime
  refine ⟨fun h => if_neg (by simp [h]), fun h => ?_⟩
  rw [if_pos h]
  refine ⟨fun c cs hc => by rw [hc], fun hc t ht => by rw [hc, ht]; rfl, fun hc ht => ?_⟩
  rw [hc, ht]
  rfl

theorem portDue_none {s : State} {p : Port} (h : s.portDue p = none) :
    s.transmissionOver p = false ∧ s.quarantineDue p = false ∧ s.leakDue p = false ∧ s.holdExpiryDue p = false := by
  unfold State.portDue at h
  split_ifs at h with h1 h2 h3 h4
  exact ⟨Bool.not_eq_true _ ▸ h1, Bool.not_eq_true _ ▸ h2, Bool.not_eq_true _ ▸ h3, Bool.not_eq_true _ ▸ h4⟩

theorem flowDue_none {s : State} {i : FlowIx} (h : s.flowDue i = none) :
    s.expiredDeadline i = none ∧ s.fillUpDue i = false := by
  unfold State.flowDue at h
  split_ifs at h with h1 h2
  exact ⟨Option.not_isSome_iff_eq_none.1 h1, Bool.not_eq_true _ ▸ h2⟩

/-- With no happening due, none of those that `due` looks through is. -/
theorem due_none {s : State} (hr : s.running = true) (h : s.due = none) :
    (∀ p, s.portDue p = none) ∧ (∀ i, s.flowDue i = none) ∧ s.bankDue = none ∧ s.poolDue = none ∧ s.agentDue = none
      ∧ s.takingDue = none ∧ s.selectionDue = none ∧ s.buildDue = none := by
  unfold State.due at h
  rw [if_pos hr] at h
  simpa [Option.or_eq_none_iff, List.findSome?_eq_none_iff] using h

theorem agentDue_none {s : State} (h : s.agentDue = none) :
    s.busyOver = false ∧ ∀ e ∈ s.agent.table, s.entryExpired e = false := by
  unfold State.agentDue at h
  cases hb : s.busyOver with
  | true => simp [hb] at h
  | false => simpa [hb] using h

theorem queue_of_takingDue_none {s : State} (hr : s.running = true) (h : s.takingDue = none)
    (hb : s.agent.busyUntil = none) : s.agent.queue = [] := by
  unfold State.takingDue State.headRequest at h
  cases hq : s.agent.queue with
  | nil => rfl
  | cons r rs => simp [hr, hb, hq] at h

/-- Settles O3: with an empty queue `step` is `idle`, which takes what `due` finds and else lets `tick` pass; and `due`
finds nothing only where each of its searches does. -/
theorem thePartRunsOnWithAnEmptyQueue : Obligations.ThePartRunsOnWithAnEmptyQueue := by
  have hidle : ∀ s : State, s.pending = [] → step s = s.idle := fun s hp => by unfold step; rw [hp]
  refine ⟨fun s hp => ⟨?due, ?tick, ?still⟩, fun s hr hd => ?quiet⟩
  case due =>
    intro c hc
    rw [hidle s hp, State.idle, hc]
  case tick =>
    intro hd hr
    obtain ⟨hearly, hlast⟩ := tick_clock hr
    refine ⟨s.tick, by rw [hidle s hp, State.idle, hd], tick_eq hr, hearly, hlast, fun p => ?_⟩
    rw [tick_port hr]
    exact symbolTime_cases (s.port p)
  case still =>
    intro hd hr
    rw [hidle s hp, State.idle, hd]
    exact congrArg _ (tick_of_not_running hr)
  case quiet =>
    obtain ⟨hports, hflows, hbank, hpool, hagent, htaking, hselection, hbuild⟩ := due_none hr hd
    obtain ⟨hbusy, htable⟩ := agentDue_none hagent
    refine ⟨fun p => ?_, fun i => flowDue_none (hflows i), hbank, hpool, hbusy, htable,
      queue_of_takingDue_none hr htaking, fun hsend => ?_⟩
    · obtain ⟨h1, h2, h3, h4⟩ := portDue_none (hports p)
      refine ⟨h1, h2, h3, h4, ?_⟩
      unfold State.selectionDue at hselection
      simpa using List.find?_eq_none.1 (Option.map_eq_none_iff.1 hselection) p (List.mem_finRange p)
    · unfold State.buildDue at hbuild
      simpa [hsend] using hbuild

end Sys2Proof.Course
end

section
/-! The flow table: what a frame end, the policer and the timers do to one entry (R69 to R75, R86 to R91), and that every
step keeps every entry as R61, R63 and R85 give it. -/

namespace Sys2Proof.Flows
open Sys2Proof.Machine Sys2Proof.Happenings Sys2Proof.Frames

/-! ### Cadence (R69 to R71) -/

theorem observe_unused {f : FlowEntry} (t : Instant) (h : f.state = .unused) : observe t f = (f, none) := by
  unfold observe
  rw [h]

theorem observe_armed {f : FlowEntry} (t : Instant) (h : f.state = .armed) : observe t f = (arriveAt t f, none) := by
  unfold observe
  rw [h]

theorem observe_onTime {f : FlowEntry} (t : Instant) (h : f.state = .onTime) :
    observe t f = (arriveAt t { f with early := if isEarly t f then f.early + 1 else f.early }, none) := by
  unfold observe
  rw [h]

theorem observe_late_or_lost {f : FlowEntry} (t : Instant) (h : f.state = .late ∨ f.state = .lost) :
    observe t f = (arriveAt t f, flagged f.cfg.notifyRecovered .flowRecovered f.missCount) := by
  unfold observe
  obtain h | h := h <;> rw [h]

/-- EARLY: before the last arrival plus the period less the tolerance (R66, R70). -/
theorem isEarly_iff {f : FlowEntry} {a : Instant} (t : Instant) (h : f.lastArrival = some a) :
    isEarly t f = true ↔ ((a + f.cfg.period - f.cfg.tolerance) - t).toNat < 2 ^ 31
      ∧ t ≠ a + f.cfg.period - f.cfg.tolerance := by
  unfold isEarly before atOrBefore
  rw [h]
  simp

/-- Settles O23: `observe` state by state. -/
theorem frameEndObservesTheCadence : Obligations.FrameEndObservesTheCadence := by
  intro t f
  refine ⟨observe_unused t, observe_armed t, fun a h ha => ?_, observe_late_or_lost t⟩
  rw [observe_onTime t h]
  simp only [isEarly_iff t ha]
  rfl

/-! ### The policer (R86 to R91) -/

theorem police_off {f : FlowEntry} (t : Instant) (len : Nat) (h : f.cfg.rate = 0 ∨ f.state = .unused) :
    police t len f = (f, .pass) := if_pos h

theorem police_on {f : FlowEntry} (t : Instant) (len : Nat) (h : ¬ (f.cfg.rate = 0 ∨ f.state = .unused)) :
    police t len f =
      if len * 1000 ≤ (refill t f).tokens then
        ({ refill t f with tokens := (refill t f).tokens - len * 1000, passed := f.passed + 1 }, .pass)
      else
        match f.cfg.overAction with
        | .demote => ({ refill t f with passed := f.passed + 1, policed := f.policed + 1 }, .demote)
        | .drop => ({ refill t f with policed := f.policed + 1 }, .drop) := if_neg h

/-- Settles O24: the tests of `police` in turn: in use with a rate, then the allowance refilled, then the over action. -/
theorem policerRefillsTestsAndCharges : Obligations.PolicerRefillsTestsAndCharges := by
  intro t len f
  refine ⟨police_off t len, fun hrate hstate => ?_⟩
  rw [police_on t len (by tauto)]
  refine ⟨fun h => if_pos h, fun h hover => ?_, fun h hover => ?_⟩
  · have hover' : ¬ len * 1000 ≤ (refill t f).tokens := Nat.not_le.2 h
    rw [if_neg hover', hover]
    rfl
  · have hover' : ¬ len * 1000 ≤ (refill t f).tokens := Nat.not_le.2 h
    rw [if_neg hover', hover]
    rfl

/-- Settles O28: the test of `execFillUp`, met or not. -/
theorem fillUpFillsTheAllowance : Obligations.FillUpFillsTheAllowance := by
  intro i s hr
  have hdue : s.fillUpDue i = true ↔ (s.flow i).state ≠ .unused ∧ (s.flow i).cfg.rate ≠ 0
      ∧ s.passed ((s.flow i).lastRefill + 1073741824) = true := by
    unfold State.fillUpDue hasFillUp
    simp only [Bool.and_eq_true, bne_iff_ne, and_assoc]
    rfl
  show (_ → _ → _ → execFillUp i s = _) ∧ (_ → execFillUp i s = _)
  unfold execFillUp
  rw [hr, Bool.true_and]
  refine ⟨fun h1 h2 h3 => ?_, fun h => ?_⟩
  · rw [if_pos (hdue.2 ⟨h1, h2, h3⟩)]
    rfl
  · rw [if_neg]
    rw [hdue]
    simp only [Bool.eq_false_iff] at h
    tauto

/-! ### Deadline expiry (R72 to R75) -/

theorem expiredDeadline_iff {s : State} {i : FlowIx} {d : Instant} : s.expiredDeadline i = some d ↔
    (s.flow i).deadline = some d ∧ hasDeadline (s.flow i) = true ∧ s.passed d = true := by
  unfold State.expiredDeadline
  cases (s.flow i).deadline with
  | none => simp
  | some e =>
    simp only [Option.ite_none_right_eq_some, Bool.and_eq_true, Option.some.injEq]
    constructor
    · rintro ⟨h, rfl⟩
      exact ⟨rfl, h⟩
    · rintro ⟨rfl, h⟩
      exact ⟨h, rfl⟩

/-- A deadline expiry in a running part, when there is one (R72). -/
theorem exec_deadlineExpiry {s : State} {i : FlowIx} {d : Instant} (hr : s.running = true)
    (h : s.expiredDeadline i = some d) : exec (.deadlineExpiry i) s = .next (s.expireFlow i d) := by
  show execDeadlineExpiry i s = _
  unfold execDeadlineExpiry
  rw [h]
  dsimp only
  rw [if_pos hr]

/-- An expiry that moves the flow to `f` and raises `kind` when `flag` is set (R75). -/
theorem expireFlow_flagged {s : State} {i : FlowIx} {d : Instant} {f : FlowEntry} {flag : Bool} {kind : NoticeKind}
    {n : Nat} (h : expire d (s.flow i) = (f, flagged flag kind n)) :
    s.expireFlow i d = { s.setFlow i f with
      notices := if flag then pushNotice s.notices kind (s.toCell d) (byteOf i) (BitVec.ofNat 16 n)
        else s.notices } := by
  unfold State.expireFlow flagged at *
  rw [h]
  cases flag <;> rfl

theorem expireFlow_quiet {s : State} {i : FlowIx} {d : Instant} {f : FlowEntry}
    (h : expire d (s.flow i) = (f, none)) : s.expireFlow i d = s.setFlow i f := by
  unfold State.expireFlow
  rw [h]

theorem hasDeadline_iff (f : FlowEntry) : hasDeadline f = true ↔ f.state = .onTime ∨ f.state = .late := by
  unfold hasDeadline
  simp

/-- Settles O26: `expire` in ON_TIME, by the loss limit. -/
theorem expiryOnTimeMakesLateOrLost : Obligations.ExpiryOnTimeMakesLateOrLost := by
  intro i d s hr hstate hdeadline hpassed
  have hexpired := expiredDeadline_iff.2 ⟨hdeadline, (hasDeadline_iff _).2 (.inl hstate), hpassed⟩
  rw [exec_deadlineExpiry hr hexpired]
  refine ⟨fun hlimit => ?_, fun hlimit => ?_⟩
  · refine congrArg _ (expireFlow_flagged (n := 1) ?_)
    unfold expire
    rw [hstate]
    exact if_pos hlimit
  · refine congrArg _ (expireFlow_flagged (n := 1) ?_)
    unfold expire
    rw [hstate]
    exact if_neg hlimit

/-- Settles O27: `expire` in LATE, by the miss count; in LOST there is no deadline to expire. -/
theorem expiryLateCountsMissesToTheLimit : Obligations.ExpiryLateCountsMissesToTheLimit := by
  intro i s hr
  refine ⟨fun hlost => ?_, fun d hstate hdeadline hpassed => ?_⟩
  · have hnone : s.expiredDeadline i = none := by
      rw [Option.eq_none_iff_forall_ne_some]
      intro d hd
      obtain ⟨_, hhas, _⟩ := expiredDeadline_iff.1 hd
      rw [hasDeadline_iff, hlost] at hhas
      simp at hhas
    show execDeadlineExpiry i s = _
    unfold execDeadlineExpiry
    rw [hnone]
  · have hexpired := expiredDeadline_iff.2 ⟨hdeadline, (hasDeadline_iff _).2 (.inr hstate), hpassed⟩
    rw [exec_deadlineExpiry hr hexpired]
    refine ⟨fun hlimit => ?_, fun hlimit => ?_⟩
    · refine congrArg _ (expireFlow_flagged ?_)
      unfold expire
      rw [hstate]
      exact if_pos hlimit
    · refine congrArg _ (expireFlow_quiet ?_)
      unfold expire
      rw [hstate]
      exact if_neg hlimit

/-! ### What keeps a flow entry sound (R61, R63, R85) -/

theorem wf_clearedFlow (t : Instant) : (clearedFlow t).wf := by
  simp [FlowEntry.wf, FlowConfig.wf, FlowEntry.cadenceWf, clearedFlow, clearedFlowConfig]

theorem wf_arriveAt {f : FlowEntry} (h : f.wf) (t : Instant) : (arriveAt t f).wf := by
  obtain ⟨hcfg, _, htokens⟩ := h
  exact ⟨hcfg, ⟨rfl, rfl⟩, htokens⟩

theorem wf_observe {f : FlowEntry} (h : f.wf) (t : Instant) : (observe t f).1.wf := by
  cases hs : f.state with
  | unused => rw [observe_unused t hs]; exact h
  | armed => rw [observe_armed t hs]; exact wf_arriveAt h t
  | onTime =>
    rw [observe_onTime t hs]
    obtain ⟨hcfg, _, htokens⟩ := h
    exact ⟨hcfg, ⟨rfl, rfl⟩, htokens⟩
  | late => rw [observe_late_or_lost t (.inl hs)]; exact wf_arriveAt h t
  | lost => rw [observe_late_or_lost t (.inr hs)]; exact wf_arriveAt h t

theorem wf_police {f : FlowEntry} (h : f.wf) (t : Instant) (len : Nat) : (police t len f).1.wf := by
  by_cases hoff : f.cfg.rate = 0 ∨ f.state = .unused
  · rw [police_off t len hoff]
    exact h
  · obtain ⟨hcfg, hcadence, _⟩ := h
    have hcap : (refill t f).tokens ≤ f.cfg.burst * 1000 := Nat.min_le_right _ _
    rw [police_on t len hoff]
    split
    · exact ⟨hcfg, hcadence, (Nat.sub_le _ _).trans hcap⟩
    · split
      · exact ⟨hcfg, hcadence, hcap⟩
      · exact ⟨hcfg, hcadence, hcap⟩

theorem wf_handOff {f : FlowEntry} (h : f.wf) (t : Instant) (len : Nat) (forward : Bool) :
    (handOff t len forward f).1.wf := by
  unfold handOff
  dsimp only
  split
  · exact wf_police (wf_observe h t) t len
  · exact wf_observe h t

/-- A miss counted keeps the count below the loss limit while LATE, and makes it the limit in LOST (R63). -/
theorem wf_expire {f : FlowEntry} (h : f.wf) (d : Instant) : (expire d f).1.wf := by
  obtain ⟨hcfg, hcadence, htokens⟩ := h
  obtain ⟨_, _, _, hlimit, _⟩ := id hcfg
  unfold expire
  cases hs : f.state with
  | unused => exact ⟨hcfg, hcadence, htokens⟩
  | armed => exact ⟨hcfg, hcadence, htokens⟩
  | lost => exact ⟨hcfg, hcadence, htokens⟩
  | onTime =>
    dsimp only
    split
    · next h1 => exact ⟨hcfg, ⟨h1.symm, rfl⟩, htokens⟩
    · next h1 =>
      have hbelow : 1 ≤ f.cfg.lossLimit - 1 := by omega
      exact ⟨hcfg, ⟨Nat.le_refl 1, hbelow, rfl⟩, htokens⟩
  | late =>
    obtain ⟨_, hmisses, _⟩ : 1 ≤ f.missCount ∧ f.missCount ≤ f.cfg.lossLimit - 1 ∧ f.deadline.isSome = true := by
      unfold FlowEntry.cadenceWf at hcadence
      rwa [hs] at hcadence
    dsimp only
    split
    · next h1 => exact ⟨hcfg, ⟨h1, rfl⟩, htokens⟩
    · next h1 =>
      have hbelow : f.missCount + 1 ≤ f.cfg.lossLimit - 1 := by omega
      exact ⟨hcfg, ⟨Nat.le_add_left 1 _, hbelow, rfl⟩, htokens⟩

theorem wf_fillUpFlow {f : FlowEntry} (h : f.wf) : (fillUpFlow f).wf := by
  obtain ⟨hcfg, hcadence, _⟩ := h
  exact ⟨hcfg, hcadence, Nat.le_refl _⟩

theorem wf_rearm {f : FlowEntry} (h : f.wf) (t : Instant) : (rearm t f).wf := by
  unfold rearm
  split
  · exact h
  · obtain ⟨hcfg, _, _⟩ := h
    exact ⟨hcfg, ⟨rfl, rfl⟩, Nat.le_refl _⟩

theorem wf_flowConfigOf {m : FlowImage} (h : flowImageOk m = true) : (flowConfigOf m).wf := by
  obtain ⟨h1, h2, h3, h4, h5, h6, _⟩ := (flowImageOk_iff m).1 h
  have hburst : m.burst.toNat ≠ 0 := fun h0 => h6 (BitVec.eq_of_toNat_eq h0)
  have hrate := m.rate.isLt
  have hburst' := m.burst.isLt
  exact ⟨h1, h2, h3, h4, h5, by show m.rate.toNat ≤ _; omega, by show 1 ≤ m.burst.toNat; omega,
    by show m.burst.toNat ≤ _; omega⟩

theorem wf_armedFlow {c : FlowConfig} (h : c.wf) (t : Instant) : (armedFlow c t).wf :=
  ⟨h, ⟨rfl, rfl⟩, Nat.le_refl _⟩

/-! ### Every step keeps the flow table sound -/

theorem flowsInv_of_flows {s t : State} (h : s.flowsInv) (hf : t.flows = s.flows) : t.flowsInv := by
  intro i
  unfold State.flow
  rw [hf]
  exact h i

theorem flowsInv_of_links {s t : State} (h : s.flowsInv) (hl : s.sameButLinks t) : t.flowsInv :=
  flowsInv_of_flows h (by rw [hl])

theorem flowsInv_setFlow {s : State} (h : s.flowsInv) (i : FlowIx) {f : FlowEntry} (hf : f.wf) :
    (s.setFlow i f).flowsInv := by
  intro j
  rw [State.flow_setFlow]
  split
  · exact hf
  · exact h j

theorem flowsInv_flowHandOff {s : State} (h : s.flowsInv) (flow : Option FlowIx) (hd : Header) (forward : Bool) :
    (s.flowHandOff flow hd forward).1.flowsInv := by
  unfold State.flowHandOff
  split
  · exact h
  · next i =>
    have hset := flowsInv_setFlow h i (wf_handOff (h i) s.localTime (frameLength hd) forward)
    dsimp only
    split
    · exact flowsInv_of_flows hset rfl
    · exact hset

theorem flowsInv_shown {s u : State} (h : s.flowsInv) (hu : Shown s u) : u.flowsInv := by
  cases hu with
  | missed => exact h
  | hit i flow hd forward => exact flowsInv_flowHandOff (s := s.bumpHit i) (flowsInv_of_flows h rfl) flow hd forward

theorem flowsInv_classified {s t : State} {f : FrameEnd} (ht : Classified s f t) (h : s.flowsInv) : t.flowsInv := by
  cases ht with
  | captured => exact flowsInv_of_flows h rfl
  | lost => exact flowsInv_of_flows h rfl
  | dropped hu count => exact flowsInv_of_links (flowsInv_shown h hu) (dropFrame_sameButLinks _ f count)
  | sent hu set prio tag => exact flowsInv_of_links (flowsInv_shown h hu) (sendCopies_sameButLinks _ f set prio tag)

theorem flowsInv_carried {r : Taken} {s t : State} {row : Instr} (hc : Carried r s row t) (h : s.flowsInv) :
    t.flowsInv := by
  cases hc with
  | same => exact h
  | clearHits first count => exact flowsInv_of_flows h (s.clearHits_flows first count)
  | adjust step => exact flowsInv_of_flows h (adjustOffset_flows s step)
  | renew => exact flowsInv_of_flows h (renew_flows s _)
  | write b => exact flowsInv_of_flows h (renew_flows _ _)
  | commit => exact flowsInv_of_flows h (swap_flows s)
  | abandon => exact flowsInv_of_flows h (startMirror_flows s)
  | clearFlow i => exact flowsInv_setFlow h i (wf_clearedFlow _)
  | armFlow i hm => exact flowsInv_setFlow h i (wf_armedFlow (wf_flowConfigOf hm) _)
  | zeroFlow i => exact flowsInv_setFlow h i (h i)
  | configure p => exact flowsInv_of_links h (applyConfig_sameButLinks s p _)
  | release p =>
    exact flowsInv_of_links h (sameButLinks_trans (endQuarantine_sameButLinks s p) (settle_sameButLinks _ s))
  | traffic =>
    intro i
    have hflow : s.trafficReset.flow i = rearm s.localTime (s.flow i) := get_ofFn _ i
    rw [hflow]
    exact wf_rearm (h i) _
  | full =>
    intro i
    have hflow : (s.fullReset r.buf).flow i = clearedFlow s.localTime := get_replicate _ i
    rw [hflow]
    exact wf_clearedFlow _
  | clearPort | clearPool | clearAgent | lease | schedule | setNotices => exact flowsInv_of_flows h rfl

theorem flowsInv_sendReply {s : State} (h : s.flowsInv) (r : Taken) (payload : List Byte) :
    (s.sendReply r payload).flowsInv := by
  obtain ⟨_, _, hframe⟩ := sendReply_frame s r payload
  exact flowsInv_of_flows h (by rw [hframe])

theorem flowsInv_powerOn (st : Straps) (lanes : PortSet) : (State.powerOn st lanes).flowsInv := by
  intro i
  have hflow : (State.powerOn st lanes).flow i = clearedFlow 0 := get_replicate _ i
  rw [hflow]
  exact wf_clearedFlow 0

theorem flowsInv_happens (c : Instr) (s t : State) (hc : Happens s c t) (h : s.flowsInv) : t.flowsInv := by
  cases hc with
  | nothing => exact h
  | powerOn st lanes => exact flowsInv_of_flows (flowsInv_powerOn st lanes) rfl
  | resetHeld => exact flowsInv_of_flows (flowsInv_powerOn s.straps 0) rfl
  | received p sym =>
    exact kept_by_receive_of_classified (fun _ _ hl h => flowsInv_of_links h hl) (fun _ _ _ => flowsInv_classified)
      p h sym
  | signalOn p => exact flowsInv_of_links h (signalOn_sameButLinks s p)
  | signalOff p => exact flowsInv_of_links h (signalOff_sameButLinks s p)
  | holdExpiry p => exact flowsInv_of_links h (setPort_sameButLinks s p _)
  | leak p => exact flowsInv_of_links h (leakStep_sameButLinks s p)
  | quarantineEnd p =>
    exact flowsInv_of_links h (sameButLinks_trans (endQuarantine_sameButLinks s p) (settle_sameButLinks _ s))
  | selection p => exact flowsInv_of_links h (sameButLinks_trans (select_sameButLinks s p) (settle_sameButLinks _ s))
  | transmissionEnd p =>
    exact flowsInv_of_links h (sameButLinks_trans (endTransmission_sameButLinks s p _) (settle_sameButLinks _ s))
  | @deadlineExpiry i d =>
    have hset := flowsInv_setFlow h i (wf_expire (h i) d)
    unfold State.expireFlow
    dsimp only
    split
    · exact flowsInv_of_flows hset rfl
    · exact hset
  | fillUp i => exact flowsInv_setFlow h i (wf_fillUpFlow (h i))
  | leaseExpiry => exact flowsInv_of_flows h (startMirror_flows _)
  | activation => exact flowsInv_of_flows h (swap_flows s)
  | mirrorStep => exact flowsInv_of_flows h (mirrorCopy_flows s _ _)
  | holdRepeat | agentReady | entryExpiry => exact flowsInv_of_flows h rfl
  | @malformed r =>
    rw [takeMalformed_eq]
    exact flowsInv_of_links (s := State.dropRef { s with agent := malformedAgent s } r.buf) h (settle_sameButLinks _ s)
  | @replay r =>
    exact kept_by_takeReplay (P := State.flowsInv) (fun _ _ => id) (fun _ r l h => flowsInv_sendReply h r l) r h
  | carriedOut _ _ hc =>
    exact kept_by_carryOut (P := State.flowsInv) (fun _ _ => id) (fun _ _ _ _ => flowsInv_carried)
      (fun _ r l h => flowsInv_sendReply h r l)
      h hc
  | build => exact flowsInv_of_links h (build_sameButLinks s)

theorem flowsInv_tick (s : State) (h : s.flowsInv) : s.tick.flowsInv := by
  unfold State.tick
  split
  · exact flowsInv_of_flows h rfl
  · exact h

/-- Settles O55: what a step does is one of `Happens` or a symbol time, and each function of one entry keeps it sound. -/
theorem everyStepKeepsTheFlows : Obligations.EveryStepKeepsTheFlows :=
  kept_by_step (fun _ _ h => flowsInv_of_flows h rfl) flowsInv_happens flowsInv_tick

end Sys2Proof.Flows
end

section
/-! Every step keeps the shadow bank within R23 and R37 and a lease within R25, and the Agent's queue and table within
R145 and R150. -/

namespace Sys2Proof.Keepers
open Sys2Proof.Machine Sys2Proof.Happenings Sys2Proof.Frames

/-! ### The banks (R22, R23, R25, R37) -/

theorem banksInv_of_fields {s t : State} (h : s.banksInv) (hctrl : t.ctrl = s.ctrl) (hbanks : t.banks = s.banks)
    (hactive : t.active = s.active) : t.banksInv := by
  unfold State.banksInv State.shadowBank State.activeBank State.shadow at *
  rw [hctrl, hbanks, hactive]
  exact h

theorem banksInv_of_links {s t : State} (h : s.banksInv) (hl : s.sameButLinks t) : t.banksInv :=
  banksInv_of_fields h (by rw [hl]) (by rw [hl]) (by rw [hl])

theorem banksInv_of_traffic {s t : State} (h : s.banksInv) (ht : sameButTraffic s t) : t.banksInv :=
  banksInv_of_fields h (by rw [ht]) (by rw [ht]) (by rw [ht])

theorem banksInv_of_free {s : State} (hc : s.ctrl = .free) (h : s.shadowBank = s.activeBank) : s.banksInv := by
  unfold State.banksInv
  rw [hc]
  exact h

theorem banksInv_of_editing {s : State} {k : Key} {d : Nat} {e : Instant} (hc : s.ctrl = .editing k d e) (h1 : 1 ≤ d)
    (h2 : d ≤ 600) : s.banksInv := by
  unfold State.banksInv
  rw [hc]
  exact ⟨h1, h2⟩

theorem banksInv_of_scheduled {s : State} {k : Key} {a : Instant} (hc : s.ctrl = .scheduled k a) : s.banksInv := by
  unfold State.banksInv
  rw [hc]
  trivial

theorem banksInv_of_mirroring {s : State} {k : Fin 65} {e : Instant} (hc : s.ctrl = .mirroring k e)
    (h : ∀ i : RulePos, i.val < k.val → s.shadowBank.entries.get i = s.activeBank.entries.get i) : s.banksInv := by
  unfold State.banksInv
  rw [hc]
  exact h

/-- MIRRORING at step 0 has no position mirrored yet (R37). -/
theorem banksInv_of_mirroring_zero {s : State} {e : Instant} (hc : s.ctrl = .mirroring 0 e) : s.banksInv :=
  banksInv_of_mirroring hc fun _ hi => absurd hi (Nat.not_lt_zero _)

theorem editing_of_banksInv {s : State} {k : Key} {d : Nat} {e : Instant} (h : s.banksInv)
    (hc : s.ctrl = .editing k d e) : 1 ≤ d ∧ d ≤ 600 := by
  unfold State.banksInv at h
  rwa [hc] at h

theorem mirrored_of_banksInv {s : State} {k : Fin 65} {e : Instant} (h : s.banksInv) (hc : s.ctrl = .mirroring k e) :
    ∀ i : RulePos, i.val < k.val → s.shadowBank.entries.get i = s.activeBank.entries.get i := by
  unfold State.banksInv at h
  rwa [hc] at h

theorem banksInv_renew {s : State} (h : s.banksInv) (k : Key) : (s.renew k).banksInv := by
  unfold State.renew
  split
  · next k' d e hc =>
    split
    · obtain ⟨h1, h2⟩ := editing_of_banksInv h hc
      exact banksInv_of_editing rfl h1 h2
    · exact h
  · exact h

theorem banksInv_startMirror (s : State) : s.startMirror.banksInv :=
  banksInv_of_mirroring_zero (e := s.localTime) (by rw [startMirror_frame])

theorem banksInv_swap (s : State) : s.swap.banksInv :=
  banksInv_of_mirroring_zero (e := s.localTime) (by rw [swap_frame])

/-- A mirror step below 64 adds its position to those mirrored; step 64 finds them all mirrored, and copies the miss
record (R37). -/
theorem banksInv_mirrorCopy {s : State} {k : Fin 65} {e : Instant} (h : s.banksInv) (hc : s.ctrl = .mirroring k e) :
    (s.mirrorCopy k e).banksInv := by
  have hmirrored := mirrored_of_banksInv h hc
  unfold State.mirrorCopy
  split
  · next hk =>
    generalize hb : ({ s.shadowBank with
      entries := s.shadowBank.entries.set (⟨k.val, hk⟩ : RulePos) (s.activeBank.entries.get ⟨k.val, hk⟩) } : Bank) = b
    have hshadow : s.setShadowEntry ⟨k.val, hk⟩ (s.activeBank.entries.get ⟨k.val, hk⟩) = s.setShadow b := by
      rw [← hb]; rfl
    rw [hshadow]
    refine banksInv_of_mirroring rfl fun i hi => ?_
    show (s.setShadow b).shadowBank.entries.get i = (s.setShadow b).activeBank.entries.get i
    rw [s.shadowBank_setShadow, s.activeBank_setShadow, ← hb, get_set]
    split
    · next hik => rw [hik]
    · next hik =>
      refine hmirrored i (Nat.lt_of_le_of_ne (Nat.le_of_lt_succ hi) fun hval => hik (Fin.ext hval))
  · next hk =>
    generalize hb : ({ s.shadowBank with miss := s.activeBank.miss } : Bank) = b
    refine banksInv_of_free rfl ?_
    show (s.setShadow b).shadowBank = (s.setShadow b).activeBank
    rw [s.shadowBank_setShadow, s.activeBank_setShadow, ← hb]
    exact congrArg (Bank.mk · _) (ext_get fun i => hmirrored i (by omega))

theorem banksInv_cleared {s : State} {b : Bank} (hc : s.ctrl = .free) (hb : s.banks = Vector.replicate 2 b) :
    s.banksInv := by
  refine banksInv_of_free hc ?_
  unfold State.shadowBank State.activeBank
  rw [hb, get_replicate, get_replicate]

theorem banksInv_carried {r : Taken} {s t : State} {row : Instr} (hc : Carried r s row t) (h : s.banksInv) :
    t.banksInv := by
  cases hc with
  | same => exact h
  | clearHits first count =>
    exact banksInv_of_fields h (s.clearHits_ctrl first count) (s.clearHits_banks first count)
      (s.clearHits_active first count)
  | adjust step =>
    unfold State.adjustOffset
    dsimp only
    split
    · exact banksInv_swap _
    · exact h
  | lease _ h1 h2 => exact banksInv_of_editing rfl h1 h2
  | write b _ hc =>
    obtain ⟨h1, h2⟩ := editing_of_banksInv h hc
    exact banksInv_renew (banksInv_of_editing (s := s.setShadow b) hc h1 h2) r.key
  | renew => exact banksInv_renew h r.key
  | commit => exact banksInv_swap s
  | schedule => exact banksInv_of_scheduled rfl
  | abandon => exact banksInv_startMirror s
  | @configure p m =>
    have hl := applyConfig_sameButLinks s p (portConfigOf m)
    generalize s.applyConfig p (portConfigOf m) = u at hl ⊢
    exact banksInv_of_links h hl
  | release p =>
    exact banksInv_of_links h (sameButLinks_trans (endQuarantine_sameButLinks s p) (settle_sameButLinks _ s))
  | traffic =>
    have hflush := flushAll_sameButLinks s
    unfold State.trafficReset
    generalize s.flushAll = u at hflush ⊢
    exact banksInv_of_fields (banksInv_of_links h hflush) rfl rfl rfl
  | full => exact @banksInv_cleared _ (clearedBank s.straps) rfl rfl
  | clearPort | clearPool | clearAgent | clearFlow | armFlow | zeroFlow | setNotices => exact h

theorem banksInv_sendReply {s : State} (h : s.banksInv) (r : Taken) (payload : List Byte) :
    (s.sendReply r payload).banksInv := by
  obtain ⟨_, _, hframe⟩ := sendReply_frame s r payload
  exact banksInv_of_fields h (by rw [hframe]) (by rw [hframe]) (by rw [hframe])

theorem banksInv_happens (c : Instr) (s t : State) (hc : Happens s c t) (h : s.banksInv) : t.banksInv := by
  cases hc with
  | nothing => exact h
  | powerOn | resetHeld => exact banksInv_cleared rfl rfl
  | received p sym => exact banksInv_of_traffic h (receive_sameButTraffic s p sym)
  | signalOn p => exact banksInv_of_links h (signalOn_sameButLinks s p)
  | signalOff p => exact banksInv_of_links h (signalOff_sameButLinks s p)
  | leak p => exact banksInv_of_links h (leakStep_sameButLinks s p)
  | quarantineEnd p =>
    exact banksInv_of_links h (sameButLinks_trans (endQuarantine_sameButLinks s p) (settle_sameButLinks _ s))
  | selection p => exact banksInv_of_links h (sameButLinks_trans (select_sameButLinks s p) (settle_sameButLinks _ s))
  | transmissionEnd p =>
    exact banksInv_of_links h (sameButLinks_trans (endTransmission_sameButLinks s p _) (settle_sameButLinks _ s))
  | deadlineExpiry i =>
    unfold State.expireFlow
    dsimp only
    split <;> exact h
  | leaseExpiry => exact banksInv_startMirror _
  | activation => exact banksInv_swap s
  | mirrorStep _ hm => exact banksInv_mirrorCopy h hm
  | @malformed r =>
    rw [takeMalformed_eq]
    exact banksInv_of_links (s := State.dropRef { s with agent := malformedAgent s } r.buf) h (settle_sameButLinks _ s)
  | @replay r =>
    exact kept_by_takeReplay (P := State.banksInv) (fun _ _ => id) (fun _ r l h => banksInv_sendReply h r l) r h
  | carriedOut _ _ hc =>
    exact kept_by_carryOut (P := State.banksInv) (fun _ _ => id) (fun _ _ _ _ => banksInv_carried)
      (fun _ r l h => banksInv_sendReply h r l) h hc
  | build => exact banksInv_of_links h (build_sameButLinks s)
  | holdExpiry | holdRepeat | fillUp | agentReady | entryExpiry => exact h

theorem banksInv_tick (s : State) (h : s.banksInv) : s.tick.banksInv := by
  unfold State.tick
  split
  · exact h
  · exact h

/-! ### The request queue and the requester table (R145, R150) -/

/-- The keys of the requester table, from the least to the most recently used. -/
abbrev tableKeys (s : State) : List Key := s.agent.table.map (·.key)

theorem agentInv_iff (s : State) : s.agentInv ↔ s.agent.queue.length ≤ 4 ∧ (tableKeys s).length ≤ 4
    ∧ (tableKeys s).Nodup ∧ ∀ k, holderOf s.ctrl = some k → k ∈ tableKeys s := by
  unfold State.agentInv tableKeys
  rw [List.length_map]

theorem agentInv_of_keys {s t : State} (h : s.agentInv) (hqueue : t.agent.queue.length ≤ s.agent.queue.length)
    (hkeys : tableKeys t = tableKeys s) (hholder : ∀ k, holderOf t.ctrl = some k → holderOf s.ctrl = some k) :
    t.agentInv := by
  rw [agentInv_iff] at h ⊢
  obtain ⟨h1, h2, h3, h4⟩ := h
  rw [hkeys]
  exact ⟨hqueue.trans h1, h2, h3, fun k hk => h4 k (hholder k hk)⟩

theorem agentInv_of_fields {s t : State} (h : s.agentInv) (hagent : t.agent = s.agent) (hctrl : t.ctrl = s.ctrl) :
    t.agentInv :=
  agentInv_of_keys h (by rw [hagent]) (by unfold tableKeys; rw [hagent]) (by rw [hctrl]; exact fun _ => id)

theorem agentInv_of_links {s t : State} (hl : s.sameButLinks t) (h : s.agentInv) : t.agentInv :=
  agentInv_of_fields h (by rw [hl]) (by rw [hl])

theorem agentInv_shown {s u : State} (hu : Shown s u) (h : s.agentInv) : u.agentInv :=
  agentInv_of_fields h (by rw [shown_frame hu]) (by rw [shown_frame hu])

theorem agentInv_classified {s t : State} {f : FrameEnd} (ht : Classified s f t) (h : s.agentInv) : t.agentInv := by
  cases ht with
  | captured hq =>
    obtain ⟨_, h2⟩ := h
    refine ⟨?_, h2⟩
    rw [List.length_append]
    exact hq
  | lost => exact agentInv_of_keys h (Nat.le_refl _) rfl fun _ => id
  | dropped hu count => exact agentInv_of_links (dropFrame_sameButLinks _ f count) (agentInv_shown hu h)
  | sent hu set prio tag => exact agentInv_of_links (sendCopies_sameButLinks _ f set prio tag) (agentInv_shown hu h)

/-- The end of a protection changes no key (R152). -/
theorem tableKeys_unprotect (s : State) (k : Key) : tableKeys (s.unprotect k) = tableKeys s := by
  unfold tableKeys State.unprotect
  rw [List.map_map]
  refine List.map_congr_left fun e _ => ?_
  show (if e.key = k then { e with lastUsed := s.localTime } else e).key = e.key
  split <;> rfl

theorem tableKeys_startMirror (s : State) :
    tableKeys s.startMirror = tableKeys s ∧ s.startMirror.agent.queue = s.agent.queue := by
  unfold State.startMirror
  dsimp only
  split
  · exact ⟨tableKeys_unprotect s _, rfl⟩
  · exact ⟨rfl, rfl⟩

theorem tableKeys_swap (s : State) : tableKeys s.swap = tableKeys s ∧ s.swap.agent.queue = s.agent.queue := by
  unfold State.swap
  dsimp only
  split
  · exact tableKeys_startMirror (State.raise { s with active := s.shadow, hits := Vector.replicate 64 0 } _ _ _)
  · exact tableKeys_startMirror { s with active := s.shadow, hits := Vector.replicate 64 0 }

theorem holderOf_startMirror (s : State) : holderOf s.startMirror.ctrl = none := by rw [startMirror_frame]; rfl

theorem holderOf_swap (s : State) : holderOf s.swap.ctrl = none := by rw [swap_frame]; rfl

theorem holderOf_renew (s : State) (k : Key) : holderOf (s.renew k).ctrl = holderOf s.ctrl := by
  unfold State.renew
  split
  · next k' d e hc =>
    split
    · rw [hc]
      show some k' = some k'
      rfl
    · rfl
  · rfl

/-! ### The served requester's place (R148, R151) -/

/-- Of two entries that share no key, one is not the holder's. -/
theorem exists_ne_of_nodup {l : List Requester} (hnodup : (l.map (·.key)).Nodup) (hlen : 2 ≤ l.length)
    (holder : Option Key) : ∃ e ∈ l, holder ≠ some e.key := by
  obtain _ | ⟨a, _ | ⟨b, l⟩⟩ := l
  · exact absurd hlen (Nat.not_succ_le_zero 1)
  · exact absurd hlen (Nat.lt_irrefl 1)
  · have hab : a.key ≠ b.key := fun h => (List.nodup_cons.1 hnodup).1 (by simp [h])
    by_cases ha : holder = some a.key
    · exact ⟨b, List.mem_cons_of_mem a List.mem_cons_self, fun hb => hab (Option.some.inj (ha.symm.trans hb))⟩
    · exact ⟨a, List.mem_cons_self, ha⟩

/-- A full table has an entry that is not the holder's, for no two entries share a key (R150, R151). -/
theorem exists_unprotected {s : State} (h : s.agentInv) (hfull : ¬ s.agent.table.length < 4) :
    ∃ e ∈ s.agent.table, (holderOf s.ctrl != some e.key) = true := by
  obtain ⟨_, _, hnodup, _⟩ := h
  obtain ⟨e, he, hne⟩ := exists_ne_of_nodup hnodup (by omega) (holderOf s.ctrl)
  exact ⟨e, he, bne_iff_ne.2 hne⟩

/-- The other requesters are entries of the table, at most three, the holder's among them. -/
theorem otherRequesters_facts {s : State} (h : s.agentInv) (k : Key) :
    (s.otherRequesters k).Sublist s.agent.table ∧ (s.otherRequesters k).length ≤ 3
      ∧ ∀ e ∈ s.agent.table, holderOf s.ctrl = some e.key → e.key ≠ k → e ∈ s.otherRequesters k := by
  have hlen : s.agent.table.length ≤ 4 := h.2.1
  unfold State.otherRequesters
  split
  · next hk =>
    obtain ⟨e, he⟩ := Option.isSome_iff_exists.1 hk
    have hmem : e ∈ s.agent.table := List.mem_of_find?_eq_some he
    have hshort : (s.agent.table.filter fun e => e.key != k).length < s.agent.table.length :=
      List.length_filter_lt_length_iff_exists.2 ⟨e, hmem, by simp [requester_key he]⟩
    exact ⟨List.filter_sublist, by omega, fun e he _ hek => List.mem_filter.2 ⟨he, by simpa using hek⟩⟩
  · split
    · next hroom => exact ⟨List.Sublist.refl _, by omega, fun e he _ _ => he⟩
    · next hfull =>
      obtain ⟨e, he, hfree⟩ := exists_unprotected h hfull
      have hshort := List.length_eraseP_of_mem (p := fun e => holderOf s.ctrl != some e.key) he hfree
      exact ⟨List.eraseP_sublist, by omega, fun e he hheld _ =>
        (List.mem_eraseP_of_neg (by simp [hheld])).2 he⟩

/-- The requester table with the served requester at its end (R148, R151). -/
theorem agentInv_served {s : State} (h : s.agentInv) (r : Taken) :
    (s.served r).agentInv ∧ r.key ∈ tableKeys (s.served r) := by
  obtain ⟨hsub, hlen, hholder⟩ := otherRequesters_facts h r.key
  obtain ⟨e, hkey, _, htable⟩ := served_table s r
  have hkeys : tableKeys (s.served r) = (s.otherRequesters r.key).map (·.key) ++ [r.key] := by
    unfold tableKeys
    rw [htable, List.map_append, List.map_singleton, hkey]
  obtain ⟨hqueue, _, hnodup, hheld⟩ := h
  refine ⟨(agentInv_iff _).2 ⟨?_, ?_, ?_, ?_⟩, by rw [hkeys]; simp⟩
  · have hq : (s.served r).agent.queue = s.agent.queue.tail := rfl
    rw [hq, List.length_tail]
    omega
  · rw [hkeys, List.length_append, List.length_map]
    exact Nat.succ_le_succ hlen
  · rw [hkeys, List.nodup_append]
    refine ⟨hnodup.sublist (hsub.map _), by simp, fun a ha b hb => ?_⟩
    obtain ⟨x, hx, rfl⟩ := List.mem_map.1 ha
    rw [List.mem_singleton.1 hb]
    exact otherRequesters_key hx
  · intro k hk
    rw [hkeys]
    by_cases hkr : k = r.key
    · simp [hkr]
    · obtain ⟨x, hx, rfl⟩ := List.mem_map.1 (hheld k hk)
      exact List.mem_append_left _ (List.mem_map.2 ⟨x, hholder x hx hk hkr, rfl⟩)

/-- The Agent while a request is served: sound, and the served requester in the table, or the table emptied by FULL. -/
def Serving (k : Key) (s : State) : Prop := s.agentInv ∧ (k ∈ tableKeys s ∨ s.agent.table = [])

theorem serving_of_keys {k : Key} {s t : State} (h : s.agentInv) (hk : k ∈ tableKeys s)
    (hqueue : t.agent.queue = s.agent.queue) (hkeys : tableKeys t = tableKeys s)
    (hholder : ∀ j, holderOf t.ctrl = some j → holderOf s.ctrl = some j) : Serving k t :=
  ⟨agentInv_of_keys h (by rw [hqueue]) hkeys hholder, .inl (hkeys ▸ hk)⟩

theorem serving_of_links {k : Key} {s t : State} (hl : s.sameButLinks t) (h : s.agentInv) (hk : k ∈ tableKeys s) :
    Serving k t :=
  serving_of_keys h hk (by rw [hl]) (by unfold tableKeys; rw [hl]) (by rw [hl]; exact fun _ => id)

/-- A lease given to the served requester is given to one in the table (R25, R150). -/
theorem serving_of_lease {k : Key} {s t : State} (h : s.agentInv) (hk : k ∈ tableKeys s) (hagent : t.agent = s.agent)
    (hholder : holderOf t.ctrl = some k) : Serving k t := by
  have hkeys : tableKeys t = tableKeys s := by unfold tableKeys; rw [hagent]
  obtain ⟨h1, h2, h3, _⟩ := (agentInv_iff s).1 h
  refine ⟨(agentInv_iff t).2 ⟨by rw [hagent]; exact h1, by rw [hkeys]; exact h2, by rw [hkeys]; exact h3, ?_⟩,
    .inl (hkeys ▸ hk)⟩
  intro j hj
  rw [hholder] at hj
  obtain rfl := Option.some.inj hj
  exact hkeys ▸ hk

theorem serving_carried {r : Taken} {s t : State} {row : Instr} (hc : Carried r s row t) (h : s.agentInv)
    (hk : r.key ∈ tableKeys s) : Serving r.key t := by
  cases hc with
  | clearHits first count =>
    exact serving_of_keys h hk (by rw [State.clearHits_agent]) (by unfold tableKeys; rw [State.clearHits_agent])
      (by rw [State.clearHits_ctrl]; exact fun _ => id)
  | adjust step =>
    unfold State.adjustOffset
    dsimp only
    split
    · obtain ⟨hkeys, hqueue⟩ := tableKeys_swap { s with offset := s.offset + step }
      exact serving_of_keys h hk hqueue hkeys (by rw [holderOf_swap]; exact fun _ hn => nomatch hn)
    · exact ⟨h, .inl hk⟩
  | lease => exact serving_of_lease h hk rfl rfl
  | schedule => exact serving_of_lease h hk rfl rfl
  | write b =>
    have hagent : ((s.setShadow b).renew r.key).agent = s.agent := by rw [renew_frame]; rfl
    exact serving_of_keys h hk (by rw [hagent]) (by unfold tableKeys; rw [hagent])
      (by rw [holderOf_renew]; exact fun _ => id)
  | renew =>
    have hagent : (s.renew r.key).agent = s.agent := by rw [renew_frame]
    exact serving_of_keys h hk (by rw [hagent]) (by unfold tableKeys; rw [hagent])
      (by rw [holderOf_renew]; exact fun _ => id)
  | commit =>
    obtain ⟨hkeys, hqueue⟩ := tableKeys_swap s
    exact serving_of_keys h hk hqueue hkeys (by rw [holderOf_swap]; exact fun _ hn => nomatch hn)
  | abandon =>
    obtain ⟨hkeys, hqueue⟩ := tableKeys_startMirror s
    exact serving_of_keys h hk hqueue hkeys (by rw [holderOf_startMirror]; exact fun _ hn => nomatch hn)
  | configure p => exact serving_of_links (applyConfig_sameButLinks s p _) h hk
  | release p =>
    exact serving_of_links (sameButLinks_trans (endQuarantine_sameButLinks s p) (settle_sameButLinks _ s)) h hk
  | traffic =>
    exact kept_by_trafficReset (P := Serving r.key) (fun _ _ => id) (serving_of_links (flushAll_sameButLinks s) h hk)
  | full => exact ⟨⟨Nat.zero_le _, Nat.zero_le _, List.nodup_nil, fun _ hn => nomatch hn⟩, .inr rfl⟩
  | clearAgent => exact serving_of_keys h hk rfl rfl fun _ => id
  | same | clearPort | clearPool | clearFlow | armFlow | zeroFlow | setNotices => exact ⟨h, .inl hk⟩

/-- The reply is stored in the requester's own entry, or in the one entry of an emptied table (R153, R161). -/
theorem agentInv_storeReply {s : State} {k : Key} (h : Serving k s) (seq : Half) (reply : List Byte) :
    (s.storeReply k seq reply).agentInv := by
  obtain ⟨hinv, hk | hempty⟩ := h
  · have hany : s.agent.table.any (fun e => e.key == k) = true := by
      obtain ⟨e, he, hek⟩ := List.mem_map.1 hk
      exact List.any_eq_true.2 ⟨e, he, beq_iff_eq.2 hek⟩
    refine agentInv_of_keys hinv (Nat.le_refl _) ?_ fun _ => id
    unfold tableKeys State.storeReply
    dsimp only
    rw [if_pos hany, List.map_map]
    refine List.map_congr_left fun e _ => ?_
    show (if e.key = k then { e with seq := seq, reply := reply } else e).key = e.key
    split <;> rfl
  · rw [agentInv_iff] at hinv
    unfold tableKeys at hinv
    rw [hempty] at hinv
    obtain ⟨h1, _, _, h4⟩ := hinv
    refine (agentInv_iff _).2 ⟨h1, ?_⟩
    unfold tableKeys State.storeReply
    dsimp only
    rw [hempty]
    exact ⟨by simp, by simp, fun j hj => absurd (h4 j hj) List.not_mem_nil⟩

theorem agentInv_sendReply {s : State} (h : s.agentInv) (r : Taken) (payload : List Byte) :
    (s.sendReply r payload).agentInv := by
  obtain ⟨c, hagent, hframe⟩ := sendReply_frame s r payload
  exact agentInv_of_keys h (by rw [hagent]) (by unfold tableKeys; rw [hagent]) (by rw [hframe]; exact fun _ => id)

/-- An entry that expires is not the holder's (R152). -/
theorem agentInv_entryExpiry {s : State} (h : s.agentInv) (k : Key) :
    State.agentInv { s with agent := { s.agent with
      table := s.agent.table.filter fun e => !(e.key == k && s.entryExpired e) } } := by
  obtain ⟨h1, h2, h3, h4⟩ := h
  refine ⟨h1, (List.length_filter_le _ _).trans h2, h3.sublist (List.filter_sublist.map _), fun j hj => ?_⟩
  obtain ⟨e, he, rfl⟩ := List.mem_map.1 (h4 j hj)
  refine List.mem_map.2 ⟨e, List.mem_filter.2 ⟨he, ?_⟩, rfl⟩
  have hprotected : s.entryExpired e = false := by
    have hkey : s.protectedKey e.key = true := beq_iff_eq.2 hj
    unfold State.entryExpired
    rw [hkey]
    rfl
  rw [hprotected, Bool.and_false, Bool.not_false]

theorem agentInv_cleared {s : State} (hagent : s.agent = initialAgent) (hctrl : s.ctrl = .free) : s.agentInv := by
  unfold State.agentInv
  rw [hagent, hctrl]
  exact ⟨Nat.zero_le _, Nat.zero_le _, List.nodup_nil, fun _ hn => nomatch hn⟩

theorem agentInv_happens (c : Instr) (s t : State) (hc : Happens s c t) (h : s.agentInv) : t.agentInv := by
  cases hc with
  | nothing => exact h
  | powerOn | resetHeld => exact agentInv_cleared rfl rfl
  | received p sym =>
    exact kept_by_receive_of_classified (fun _ _ => agentInv_of_links) (fun _ _ _ => agentInv_classified) p h sym
  | signalOn p => exact agentInv_of_links (signalOn_sameButLinks s p) h
  | signalOff p => exact agentInv_of_links (signalOff_sameButLinks s p) h
  | leak p => exact agentInv_of_links (leakStep_sameButLinks s p) h
  | quarantineEnd p =>
    exact agentInv_of_links (sameButLinks_trans (endQuarantine_sameButLinks s p) (settle_sameButLinks _ s)) h
  | selection p => exact agentInv_of_links (sameButLinks_trans (select_sameButLinks s p) (settle_sameButLinks _ s)) h
  | transmissionEnd p =>
    exact agentInv_of_links (sameButLinks_trans (endTransmission_sameButLinks s p _) (settle_sameButLinks _ s)) h
  | deadlineExpiry i =>
    unfold State.expireFlow
    dsimp only
    split <;> exact h
  | @leaseExpiry k =>
    obtain ⟨hkeys, hqueue⟩ := tableKeys_startMirror (s.raise .leaseExpired (byteOf k.port) k.handle)
    exact agentInv_of_keys h (by rw [hqueue]; rfl) hkeys (by rw [holderOf_startMirror]; exact fun _ hn => nomatch hn)
  | activation =>
    obtain ⟨hkeys, hqueue⟩ := tableKeys_swap s
    exact agentInv_of_keys h (by rw [hqueue]) hkeys (by rw [holderOf_swap]; exact fun _ hn => nomatch hn)
  | @mirrorStep k e _ hm =>
    refine agentInv_of_keys h (by rw [mirrorCopy_frame]) (by unfold tableKeys; rw [mirrorCopy_frame]) fun j hj => ?_
    unfold State.mirrorCopy at hj
    split at hj
    · cases hj
    · cases hj
  | entryExpiry k => exact agentInv_entryExpiry h k
  | @malformed r =>
    rw [takeMalformed_eq]
    refine agentInv_of_links (settle_sameButLinks _ s) ?_
    refine agentInv_of_keys h ?_ rfl fun _ => id
    show s.agent.queue.tail.length ≤ _
    rw [List.length_tail]
    exact Nat.sub_le _ _
  | @replay r =>
    cases hreq : s.requester r.key with
    | none => rwa [takeReplay_none hreq]
    | some e =>
      rw [takeReplay_eq hreq]
      refine agentInv_sendReply ?_ r _
      exact agentInv_of_keys (agentInv_served h r).1 (Nat.le_refl _) rfl fun _ => id
  | @carriedOut _ r cmd _ _ hc =>
    obtain ⟨hserved, hk⟩ := agentInv_served h r
    rw [carryOut_eq]
    exact agentInv_sendReply (agentInv_storeReply (serving_carried hc hserved hk) r.seq _) r _
  | build => exact agentInv_of_links (build_sameButLinks s) h
  | holdExpiry | holdRepeat | fillUp | agentReady => exact h

theorem agentInv_tick (s : State) (h : s.agentInv) : s.tick.agentInv := by
  unfold State.tick
  split
  · exact h
  · exact h

/-- Settles O57: what a step does is one of `Happens` or a symbol time, each of which keeps both invariants. -/
theorem everyStepKeepsTheBanksAndRequesters : Obligations.EveryStepKeepsTheBanksAndRequesters :=
  ⟨kept_by_step (fun _ _ => id) banksInv_happens banksInv_tick,
    kept_by_step (fun _ _ => id) agentInv_happens agentInv_tick⟩

end Sys2Proof.Keepers
end

section
/-! Settles O56. A port's record is sound (R107, R119, R124, R130 to R133, R138) or becomes so at the tests that end a
happening; what each operation makes of one port is said once (`PortKept`), and every step is made of such
operations. -/

namespace Sys2Proof.LinkPorts
open Sys2Proof.Machine Sys2Proof.Happenings Sys2Proof.Frames Sys2Proof.Course

/-! ### A sound record -/

/-- What `portsInv` asks of one port. -/
def portOk (x : PortRec) : Prop := x.cfg.wf ∧ x.queueWf ∧ x.scoreWf ∧ x.enableWf

/-- A port's record up to the quarantine test and the leak: what a happening may leave before its tests. -/
structure Sound (x : PortRec) : Prop where
  cfg : x.cfg.wf
  queue : x.queueWf
  score : x.score ≤ 1023
  warned : x.warned = true → x.cfg.warnThreshold ≤ 2 * x.score
  unwarned : x.warned = false → x.score < x.cfg.warnThreshold
  enable : x.enableWf

/-- A port in UP or TRAINING has a score below its quarantine threshold (R133). -/
def Tested (x : PortRec) : Prop := x.isUp = true ∨ x.isTraining = true → x.score < x.cfg.quarantineThreshold

/-- There is a next leak exactly with a score above 0 outside QUARANTINE (R131, R135). -/
def Leaks (x : PortRec) : Prop := x.nextLeak.isSome = true ↔ 0 < x.score ∧ x.isQuarantine = false

theorem portOk_iff {x : PortRec} : portOk x ↔ Sound x ∧ Tested x ∧ Leaks x := by
  constructor
  · rintro ⟨hcfg, hqueue, ⟨hscore, hwarned, hunwarned, htested, hleaks⟩, henable⟩
    exact ⟨⟨hcfg, hqueue, hscore, hwarned, hunwarned, henable⟩, htested, hleaks⟩
  · rintro ⟨⟨hcfg, hqueue, hscore, hwarned, hunwarned, henable⟩, htested, hleaks⟩
    exact ⟨hcfg, hqueue, ⟨hscore, hwarned, hunwarned, htested, hleaks⟩, henable⟩

theorem queueWf_empty {x : PortRec} (hq : x.queue = []) (ht : x.tx = none) : x.queueWf := by
  refine ⟨by rw [hq]; exact Nat.zero_le _, by rw [hq]; exact List.Pairwise.nil, fun _ => ⟨hq, ht⟩⟩

/-- A port in UP may have any queue within the bound and in order. -/
theorem queueWf_up {x : PortRec} (hu : x.isUp = true) (hl : x.queue.length ≤ 48)
    (hs : x.queue.Pairwise fun a b => b.prio ≤ a.prio) : x.queueWf :=
  ⟨hl, hs, fun h => absurd (hu.symm.trans h) Bool.noConfusion⟩

/-- The warned test makes the warned flag sound (R132). -/
theorem sound_warnedTest {x : PortRec} (hcfg : x.cfg.wf) (hqueue : x.queueWf) (hscore : x.score ≤ 1023)
    (henable : x.enableWf) : Sound { x with warned := warnedAfter x } := by
  have hthreshold : ∀ w, warnedAfter x = w → if w then x.cfg.warnThreshold ≤ 2 * x.score
      else x.score < x.cfg.warnThreshold := by
    rintro w rfl
    unfold warnedAfter
    cases x.warned with
    | true =>
      simp only [if_true, decide_eq_true_eq]
      split <;> omega
    | false =>
      simp only [Bool.false_eq_true, if_false, decide_eq_true_eq]
      split <;> omega
  exact ⟨hcfg, hqueue, hscore, fun h => by simpa using hthreshold true h, fun h => by simpa using hthreshold false h,
    henable⟩

/-- A sound port in UP is in no other state. -/
theorem not_quarantine_of_up {x : PortRec} (hu : x.isUp = true) : x.isQuarantine = false := by
  obtain ⟨_, _, hl⟩ := isUp_link hu
  unfold PortRec.isQuarantine
  rw [hl]

theorem enabled_of_link {x : PortRec} (h : x.enableWf) (hl : x.link ≠ .disabled) : x.cfg.enable = true := by
  cases he : x.cfg.enable with
  | true => rfl
  | false => exact absurd (h.1 he) hl

theorem enableWf_of_enabled {x : PortRec} (he : x.cfg.enable = true) (hl : x.link ≠ .disabled) : x.enableWf :=
  ⟨fun h => absurd (he.symm.trans h) Bool.noConfusion, fun h => absurd h hl⟩

/-- Entry to QUARANTINE makes a sound port pass its tests (R133, R135). -/
theorem portOk_quarantined {x : PortRec} (h : Sound x) (he : x.cfg.enable = true) (endAt : Instant) :
    portOk (quarantined x endAt) := by
  rw [portOk_iff]
  have hquarantine : ∀ y : PortRec, Tested { y with link := .quarantine endAt, nextLeak := none, ctl := [] }
      ∧ Leaks { y with link := .quarantine endAt, nextLeak := none, ctl := [] } := fun y =>
    ⟨fun h => absurd h (by simp [PortRec.isUp, PortRec.isTraining]), by simp [Leaks, PortRec.isQuarantine]⟩
  refine ⟨?_, hquarantine _⟩
  unfold quarantined
  cases hu : x.isUp with
  | true =>
    exact ⟨h.cfg, queueWf_empty rfl rfl, h.score, h.warned, h.unwarned, enableWf_of_enabled he LinkState.noConfusion⟩
  | false =>
    obtain ⟨hq, ht⟩ := h.queue.2.2 hu
    exact ⟨h.cfg, queueWf_empty hq ht, h.score, h.warned, h.unwarned, enableWf_of_enabled he LinkState.noConfusion⟩

/-- A port that passes its tests where it is UP or TRAINING, or enters QUARANTINE, is sound. -/
theorem portOk_tested {x : PortRec} (h : Sound x) (hl : Leaks x)
    (he : x.isUp = true ∨ x.isTraining = true → x.cfg.enable = true) (endAt : Instant) :
    portOk (if (x.isUp || x.isTraining) && x.cfg.quarantineThreshold ≤ x.score then quarantined x endAt else x) := by
  split
  · next hc =>
    rw [Bool.and_eq_true, Bool.or_eq_true] at hc
    exact portOk_quarantined h (he hc.1) endAt
  · next hc =>
    rw [Bool.and_eq_true, Bool.or_eq_true, decide_eq_true_eq, not_and, not_le] at hc
    exact portOk_iff.2 ⟨h, hc, hl⟩

/-! ### What an operation makes of one port -/

/-- A port's record becomes another of the same configuration, sound when it was. -/
structure PortKept (x y : PortRec) : Prop where
  ok : portOk x → portOk y
  cfg : y.cfg = x.cfg

theorem PortKept.refl (x : PortRec) : PortKept x x := ⟨id, rfl⟩

theorem PortKept.trans {x y z : PortRec} (h : PortKept x y) (k : PortKept y z) : PortKept x z :=
  ⟨fun hx => k.ok (h.ok hx), k.cfg.trans h.cfg⟩

/-- The receiver, the counters, the control symbols and the signal matter to no clause. -/
theorem PortKept.of_same {x y : PortRec} (h : y = { x with
    signal := y.signal, rx := y.rx, counters := y.counters, ctl := y.ctl }) : PortKept x y := by
  rw [h]
  exact ⟨id, rfl⟩

/-- A link state of the same kind. -/
theorem PortKept.relink {x : PortRec} {l : LinkState} (hup : ({ x with link := l } : PortRec).isUp = x.isUp)
    (ht : ({ x with link := l } : PortRec).isTraining = x.isTraining)
    (hq : ({ x with link := l } : PortRec).isQuarantine = x.isQuarantine) (hd : l = .disabled ↔ x.link = .disabled) :
    PortKept x { x with link := l } := by
  refine ⟨fun h => ?_, rfl⟩
  unfold portOk PortRec.queueWf PortRec.scoreWf PortRec.enableWf at h ⊢
  rw [hup, ht, hq]
  dsimp only
  rw [hd]
  exact h

/-- A port out of UP whose queue and transmitter are empty, out of QUARANTINE as before, and its leak as it was. -/
theorem portOk_move {x y : PortRec} (h : portOk x) (hq : y.queue = []) (ht : y.tx = none) (hcfg : y.cfg = x.cfg)
    (hs : y.score = x.score) (hw : y.warned = x.warned) (htest : Tested y) (hl : Leaks y) (he : y.enableWf) : portOk y := by
  obtain ⟨hx, -, -⟩ := portOk_iff.1 h
  refine portOk_iff.2 ⟨⟨hcfg ▸ hx.cfg, queueWf_empty hq ht, hs ▸ hx.score, ?_, ?_, he⟩, htest, hl⟩
  · rw [hw, hs, hcfg]
    exact hx.warned
  · rw [hw, hs, hcfg]
    exact hx.unwarned

theorem PortKept.of_flush (x : PortRec) : PortKept x (flushed x) := by
  refine ⟨fun h => ?_, rfl⟩
  obtain ⟨hx, htest, hleaks⟩ := portOk_iff.1 h
  exact portOk_move h rfl rfl rfl rfl rfl htest hleaks hx.enable

/-- Departure from UP to DOWN or TRAINING (R122, R123). -/
theorem PortKept.left {x : PortRec} (hu : x.isUp = true) {d : LinkState} (hd : d = .down ∨ ∃ n, d = .training n) :
    PortKept x { flushed x with link := d, ctl := [] } := by
  have hlink : x.link ≠ .disabled := by
    obtain ⟨_, _, hl⟩ := isUp_link hu
    rw [hl]
    exact LinkState.noConfusion
  refine ⟨fun h => ?_, rfl⟩
  obtain ⟨hx, htest, hleaks⟩ := portOk_iff.1 h
  have he := enabled_of_link hx.enable hlink
  refine portOk_move h rfl rfl rfl rfl rfl (fun _ => htest (.inl hu)) ?_ ?_
  · unfold Leaks at hleaks ⊢
    rw [not_quarantine_of_up hu] at hleaks
    obtain rfl | ⟨n, rfl⟩ := hd <;> exact hleaks
  · refine enableWf_of_enabled he ?_
    obtain rfl | ⟨n, rfl⟩ := hd <;> exact LinkState.noConfusion

/-- Entry to TRAINING from DOWN or at the end of a quarantine, with its test (R121, R133). -/
theorem PortKept.trained {x : PortRec} (hlink : x.link ≠ .disabled) (hup : x.isUp = false)
    (hleak : portOk x → (x.nextLeak.isSome = true ↔ 0 < x.score)) (endAt : Instant) :
    PortKept x (if x.cfg.quarantineThreshold ≤ x.score then quarantined (training x) endAt else training x) := by
  refine ⟨fun h => ?_, by split <;> rfl⟩
  obtain ⟨hx, -, -⟩ := portOk_iff.1 h
  obtain ⟨hq, ht⟩ := hx.queue.2.2 hup
  have he := enabled_of_link hx.enable hlink
  have hsound : Sound (training x) := ⟨hx.cfg, queueWf_empty hq ht, hx.score, hx.warned, hx.unwarned,
    enableWf_of_enabled he LinkState.noConfusion⟩
  split
  · exact portOk_quarantined hsound he endAt
  · next hscore =>
    refine portOk_iff.2 ⟨hsound, fun _ => Nat.lt_of_not_le hscore, ?_⟩
    exact (hleak h).trans ⟨fun h => ⟨h, rfl⟩, And.left⟩

/-- A rise of the score, with the warned test, from a sound port outside QUARANTINE (R130 to R132). -/
theorem sound_risen {x : PortRec} (h : portOk x) (hq : x.isQuarantine = false) (w : Nat) (hw : 0 < w) (next : Instant) :
    Sound (risen x w next) ∧ Leaks (risen x w next) := by
  obtain ⟨hx, -, hleaks⟩ := portOk_iff.1 h
  refine ⟨sound_warnedTest hx.cfg hx.queue (Nat.min_le_left _ _) hx.enable, ?_⟩
  show (if x.score = 0 then some next else x.nextLeak).isSome = true ↔
    0 < min Config.scoreMax (x.score + w) ∧ x.isQuarantine = false
  unfold Leaks at hleaks
  simp only [Config.scoreMax]
  split
  · simp only [Option.isSome_some, true_iff]
    exact ⟨by omega, hq⟩
  · rw [hleaks]
    simp only [hq, and_true]
    omega

theorem errorWeight_pos (e : RxError) : 0 < errorWeight e := by
  cases e <;> decide

/-- A receive error in UP (R127, R130 to R133). -/
theorem PortKept.of_scored {x : PortRec} (hu : x.isUp = true) (u : NoticeUnit) (p : Port) (e : RxError)
    (now time : Instant) : PortKept x (scored x u p (errorWeight e) now time).1 := by
  have hlink : x.link ≠ .disabled := by
    obtain ⟨_, _, hl⟩ := isUp_link hu
    rw [hl]
    exact LinkState.noConfusion
  unfold scored
  dsimp only
  generalize hy : risen x (errorWeight e) _ = y
  have hyu : y.isUp = true := by rw [← hy]; exact hu
  have hyc : y.cfg = x.cfg := by rw [← hy]; rfl
  refine ⟨fun h => ?_, ?_⟩
  · obtain ⟨hs, hl⟩ := sound_risen h (not_quarantine_of_up hu) (errorWeight e) (errorWeight_pos e)
      (now + BitVec.ofNat 32 (x.cfg.leakInterval * 1000))
    rw [hy] at hs hl
    split
    · refine portOk_quarantined hs ?_ _
      rw [hyc]
      exact enabled_of_link (portOk_iff.1 h).1.enable hlink
    · next hscore => exact portOk_iff.2 ⟨hs, fun _ => Nat.lt_of_not_le hscore, hl⟩
  · split
    · exact (show (quarantined y _).cfg = y.cfg by unfold quarantined; split <;> rfl).trans hyc
    · exact hyc

/-- A rise of the score outside UP, TRAINING and QUARANTINE, where no quarantine test follows (R129). -/
theorem PortKept.risen_down {x : PortRec} (hl : x.link = .down) (w : Nat) (hw : 0 < w) (next : Instant) :
    PortKept x (risen x w next) := by
  refine ⟨fun h => ?_, rfl⟩
  have hq : x.isQuarantine = false := by unfold PortRec.isQuarantine; rw [hl]
  obtain ⟨hs, hleaks⟩ := sound_risen h hq w hw next
  refine portOk_iff.2 ⟨hs, fun ht => ?_, hleaks⟩
  have hlink : (risen x w next).link = .down := hl
  simp [PortRec.isUp, PortRec.isTraining, hlink] at ht

/-! ### A configuration given to a port (R124, R131 to R133, R138) -/

/-- The enable setting's change leaves a port of the new configuration, sound up to its tests. -/
structure Enabled (x : PortRec) (c : PortConfig) (a : PortRec) : Prop where
  cfg : a.cfg = c
  queue : a.queueWf
  score : a.score ≤ 1023
  enable : a.enableWf
  leaks : Leaks a

theorem disabled_isUp {x : PortRec} (h : x.link = .disabled) : x.isUp = false := by
  unfold PortRec.isUp
  rw [h]

theorem enabled_on {x : PortRec} (h : portOk x) {c : PortConfig} (hc : c.enable = true) (hx : x.cfg.enable = false)
    {l : LinkState} (hl : l = .down ∨ l = .training 0) : Enabled x c { x with cfg := c, link := l } := by
  obtain ⟨hs, -, hleaks⟩ := portOk_iff.1 h
  have hlink := hs.enable.1 hx
  obtain ⟨hq, ht⟩ := hs.queue.2.2 (disabled_isUp hlink)
  unfold Leaks PortRec.isQuarantine at hleaks
  rw [hlink] at hleaks
  refine ⟨rfl, queueWf_empty hq ht, hs.score, enableWf_of_enabled hc ?_, ?_⟩
  · obtain rfl | rfl := hl <;> exact LinkState.noConfusion
  · obtain rfl | rfl := hl <;> exact hleaks

theorem enabled_off {x : PortRec} (h : portOk x) {c : PortConfig} (hc : c.enable = false) {y : PortRec}
    (hcfg : y.cfg = c) (hlink : y.link = .disabled) (hq : y.queue = []) (ht : y.tx = none) (hs : y.score = x.score)
    (hl : y.nextLeak.isSome = true ↔ 0 < x.score) : Enabled x c y := by
  refine ⟨hcfg, queueWf_empty hq ht, hs ▸ (portOk_iff.1 h).1.score, ?_, ?_⟩
  · unfold PortRec.enableWf
    rw [hcfg, hc, hlink]
    exact iff_of_true rfl rfl
  · unfold Leaks PortRec.isQuarantine
    rw [hlink, hs]
    exact hl.trans ⟨fun h => ⟨h, rfl⟩, And.left⟩

theorem enabled_enableApplied {x : PortRec} (h : portOk x) (c : PortConfig) (u : NoticeUnit) (p : Port)
    (now time : Instant) : Enabled x c (enableApplied { x with cfg := c } x.cfg.enable u p now time).1 := by
  obtain ⟨hs, -, hleaks⟩ := portOk_iff.1 h
  unfold enableApplied
  dsimp only
  by_cases hon : (c.enable && !x.cfg.enable) = true
  · rw [if_pos hon]
    rw [Bool.and_eq_true, Bool.not_eq_true'] at hon
    refine enabled_on h hon.1 hon.2 ?_
    rw [hs.enable.1 hon.2]
    dsimp only
    cases x.signal <;> simp
  · rw [if_neg hon]
    by_cases hoff : (!c.enable && x.cfg.enable) = true
    · rw [if_pos hoff]
      rw [Bool.and_eq_true, Bool.not_eq_true'] at hoff
      have hdown : x.isUp = false → x.queue = [] ∧ x.tx = none := hs.queue.2.2
      unfold Leaks PortRec.isQuarantine at hleaks
      unfold PortRec.isUp at hdown
      cases hl : x.link with
      | up run held =>
        rw [hl] at hleaks
        exact enabled_off h hoff.1 rfl rfl rfl rfl rfl (hleaks.trans (and_iff_left rfl))
      | quarantine e =>
        rw [hl] at hdown
        obtain ⟨hq, ht⟩ := hdown rfl
        refine enabled_off h hoff.1 rfl rfl hq ht rfl ?_
        dsimp only
        split
        · next h0 => simp [h0]
        · next h0 => simp only [Option.isSome_some, true_iff]; omega
      | disabled | down | training =>
        rw [hl] at hdown hleaks
        obtain ⟨hq, ht⟩ := hdown rfl
        exact enabled_off h hoff.1 rfl rfl hq ht rfl (by simpa using hleaks)
    · rw [if_neg hoff]
      have hsame : c.enable = x.cfg.enable := by
        cases hc : c.enable <;> cases hx : x.cfg.enable <;> simp_all
      refine ⟨rfl, hs.queue, hs.score, ?_, hleaks⟩
      unfold PortRec.enableWf
      dsimp only
      rw [hsame]
      exact hs.enable

/-- SET_PORT leaves a sound port (R138). -/
theorem portOk_configured {x : PortRec} (h : portOk x) {c : PortConfig} (hc : c.wf) (u : NoticeUnit) (p : Port)
    (now time : Instant) : portOk (configured x c u p now time).1 := by
  unfold configured
  dsimp only
  have ha := enabled_enableApplied h c u p now time
  generalize enableApplied { x with cfg := c } x.cfg.enable u p now time = a at ha
  generalize hy : (if c.leakInterval = x.cfg.leakInterval then a.1
    else { a.1 with nextLeak := a.1.nextLeak.map fun _ => now + BitVec.ofNat 32 (c.leakInterval * 1000) }) = y
  have hyok : Enabled x c y := by
    rw [← hy]
    split
    · exact ha
    · refine ⟨ha.cfg, ha.queue, ha.score, ha.enable, ?_⟩
      unfold Leaks
      rw [Option.isSome_map]
      exact ha.leaks
  have hsound : Sound { y with warned := warnedAfter y } :=
    sound_warnedTest (hyok.cfg ▸ hc) hyok.queue hyok.score hyok.enable
  have hactive : ({ y with warned := warnedAfter y } : PortRec).isUp = true
      ∨ ({ y with warned := warnedAfter y } : PortRec).isTraining = true → y.cfg.enable = true := by
    intro ht
    refine enabled_of_link hyok.enable fun hl => ?_
    simp [PortRec.isUp, PortRec.isTraining, hl] at ht
  rw [← hyok.cfg]
  have htested := portOk_tested hsound hyok.leaks hactive (now + BitVec.ofNat 32 (y.cfg.quarantineHold * 100000))
  split
  · next hq => rwa [if_pos hq] at htested
  · next hq => rwa [if_neg hq] at htested

theorem portConfigOf_wf {m : PortImage} (h : portImageOk m = true) : (portConfigOf m).wf := by
  rw [portImageOk_iff] at h
  obtain ⟨-, hq1, hq2, hw1, -, hl, hh, hhold, hwq, hq3⟩ := h
  have hbyte : ∀ b : Byte, b.toNat ≤ 255 := fun b => by have := b.isLt; omega
  exact ⟨hq1, hq2, hbyte _, hw1, hwq, hq3, hl, hbyte _, hh, hbyte _, hhold, hbyte _⟩

/-! ### What an operation makes of the ports -/

/-- Every port of `t` is as an operation may leave that of `s`. -/
def portsKept (s t : State) : Prop := ∀ p, PortKept (s.port p) (t.port p)

theorem portsKept_refl (s : State) : portsKept s s := fun _ => .refl _

theorem portsKept_trans {s t u : State} (h : portsKept s t) (k : portsKept t u) : portsKept s u :=
  fun p => (h p).trans (k p)

/-- One port is moved, and of the others no more than the control symbols. -/
theorem portsKept_at {s t : State} {p : Port} (hown : PortKept (s.port p) (t.port p))
    (hne : ∀ q, q ≠ p → t.port q = s.port q) : portsKept s t := by
  intro q
  by_cases hq : q = p
  · rw [hq]
    exact hown
  · rw [hne q hq]
    exact .refl _

theorem portsKept_of_ports {s t : State} (h : t.ports = s.ports) : portsKept s t := by
  intro p
  unfold State.port
  rw [h]
  exact .refl _

theorem portsKept_setPort {s : State} {p : Port} {x : PortRec} (h : PortKept (s.port p) x) :
    portsKept s (s.setPort p x) :=
  portsKept_at (by rwa [State.port_setPort_same]) fun _ hq => State.port_setPort_ne s x hq

theorem portsKept_ctl {s t : State} (h : ∀ p, t.port p = { s.port p with ctl := (t.port p).ctl }) : portsKept s t :=
  fun p => .of_same (by rw [h p])

theorem portsKept_settle (s base : State) : portsKept s (s.settle base) := portsKept_ctl (settle_port s base)

theorem portsKept_sendToUp (s : State) (c : Ctl) : portsKept s (s.sendToUp c) := by
  refine portsKept_ctl fun p => ?_
  rw [State.port_sendToUp]
  split <;> rfl

theorem portsKept_alloc {s t : State} {n : Nat} {b : BufId} (h : s.alloc n = some (b, t)) : portsKept s t := by
  obtain ⟨_, _, rfl⟩ := alloc_some h
  exact portsKept_ctl (decideAtAlloc_port (s.takeBuffer b))

theorem portsKept_dropRef? (s : State) (b : Option BufId) : portsKept s (s.dropRef? b) :=
  portsKept_of_ports (by cases b <;> rfl)

theorem portsKept_flush (s : State) (p : Port) : portsKept s (s.flushPort p) := by
  intro q
  rw [flushPort_port]
  split
  · next hq => rw [hq]; exact .of_flush _
  · exact .refl _

theorem portsKept_leaveUp {s : State} {p : Port} (hu : (s.port p).isUp = true) {d : LinkState}
    (hd : d = .down ∨ ∃ n, d = .training n) : portsKept s (s.leaveUp p d) :=
  portsKept_at (by rw [leaveUp_port, if_pos rfl]; exact .left hu hd) fun q hq => by rw [leaveUp_port, if_neg hq]

theorem portsKept_enterTraining {s : State} {p : Port} (hlink : (s.port p).link ≠ .disabled)
    (hup : (s.port p).isUp = false)
    (hleak : portOk (s.port p) → ((s.port p).nextLeak.isSome = true ↔ 0 < (s.port p).score)) :
    portsKept s (s.enterTraining p) :=
  portsKept_at (by rw [enterTraining_port_same]; exact .trained hlink hup hleak _)
    fun _ hq => enterTraining_port_ne s hq

theorem leaks_of_portOk {x : PortRec} (h : portOk x) (hq : x.isQuarantine = false) :
    x.nextLeak.isSome = true ↔ 0 < x.score := by
  obtain ⟨-, -, hleaks⟩ := portOk_iff.1 h
  exact hleaks.trans (and_iff_left hq)

theorem portsKept_loseLock {s : State} {p : Port} (hu : (s.port p).isUp = true) : portsKept s (s.loseLock p) := by
  have hport : (s.leaveUp p (.training 0)).port p = { flushed (s.port p) with link := .training 0, ctl := [] } := by
    rw [leaveUp_port, if_pos rfl]
  refine portsKept_trans (portsKept_leaveUp hu (.inr ⟨0, rfl⟩)) (portsKept_enterTraining ?_ ?_ ?_)
  · rw [hport]
    exact LinkState.noConfusion
  · rw [hport]
    rfl
  · exact fun h => leaks_of_portOk h (by rw [hport]; rfl)

/-! ### Strokes -/

theorem portsKept_error {s : State} {p : Port} (hp : PortRec.receives (s.port p)) (b : Option BufId) (e : RxError)
    (rx : Reception) : portsKept s (s.rxError p b e rx) := by
  have hcounted : PortKept (s.port p) (errorCounted (s.port p) b e rx) := .of_same rfl
  obtain hu | hq := hp
  · have h := rxError_up hu b e rx
    dsimp only at h
    have hscored : PortKept (s.port p) (scored (errorCounted (s.port p) b e rx) s.notices p (errorWeight e) s.localTime
        s.cellTime).1 :=
      hcounted.trans (.of_scored (x := errorCounted (s.port p) b e rx) hu _ _ _ _ _)
    intro q
    by_cases hqp : q = p
    · rw [hqp, h.own]
      exact hscored.trans (.of_same rfl)
    · rw [h.others q hqp]
      exact .of_same rfl
  · have h := rxError_quarantine hq b e rx
    intro q
    by_cases hqp : q = p
    · rw [hqp, h.own]
      exact hcounted.trans (.of_same rfl)
    · rw [h.others q hqp]
      exact .of_same rfl

theorem portsKept_beginFrame (s : State) (p : Port) : portsKept s (s.beginFrame p) := by
  unfold State.beginFrame
  split
  · split
    · next b t ha => exact portsKept_trans (portsKept_alloc ha) (portsKept_setPort (.of_same rfl))
    · exact portsKept_setPort (.of_same rfl)
  · exact portsKept_setPort (.of_same rfl)

/-- A port that accepts an entry has room for it (R107, R108). -/
theorem PortKept.enqueued {x : PortRec} (ha : x.canAccept = true) (e : QueueEntry) :
    PortKept x { x with queue := insertEntry e x.queue } := by
  unfold PortRec.canAccept at ha
  rw [Bool.and_eq_true, decide_eq_true_eq] at ha
  obtain ⟨hu, hroom⟩ := ha
  refine ⟨fun h => ?_, rfl⟩
  obtain ⟨hs, htest, hleaks⟩ := portOk_iff.1 h
  obtain ⟨-, hlimit, -⟩ := hs.cfg
  obtain ⟨-, hsorted, -⟩ := hs.queue
  have hlength : (insertEntry e x.queue).length ≤ 48 := by
    rw [insertEntry_length]
    omega
  exact portOk_iff.2 ⟨⟨hs.cfg, queueWf_up hu hlength (insertEntry_sorted e _ hsorted), hs.score, hs.warned, hs.unwarned,
    hs.enable⟩, htest, hleaks⟩

theorem portsKept_enqueue {s : State} {p : Port} (ha : (s.port p).canAccept = true) (e : QueueEntry) :
    portsKept s (s.enqueue p e) := portsKept_setPort (.enqueued ha e)

theorem portsKept_offerCopies (s : State) (e : QueueEntry) (qs : List Port) :
    portsKept s (qs.foldl (fun t q => t.offerCopy e q) s) := by
  induction qs generalizing s with
  | nil => exact portsKept_refl s
  | cons q qs ih =>
    have hoffer : portsKept s (s.offerCopy e q) := by
      unfold State.offerCopy
      split
      · next ha => exact portsKept_enqueue ha e
      · exact portsKept_setPort (.of_same rfl)
    exact portsKept_trans hoffer (ih _)

theorem portsKept_classified {s t : State} {f : FrameEnd} (h : Classified s f t) : portsKept s t := by
  have hshown : ∀ u, Shown s u → portsKept s u := fun u hu => portsKept_of_ports (by rw [shown_frame hu])
  cases h with
  | captured => exact portsKept_refl s
  | lost => exact portsKept_refl s
  | @dropped u hu count => exact portsKept_trans (hshown u hu) (portsKept_setPort (.of_same rfl))
  | @sent u hu set prio tag =>
    refine portsKept_trans (hshown u hu) ?_
    unfold State.sendCopies
    dsimp only
    split
    · exact portsKept_setPort (.of_same rfl)
    · split
      · exact portsKept_offerCopies _ _ _
      · exact portsKept_offerCopies _ _ _

theorem portsKept_stroke {p : Port} {s t : State} (h : Stroke p s t) : portsKept s t := by
  cases h with
  | @train n m hl =>
    refine portsKept_setPort (.relink ?_ ?_ ?_ ?_) <;>
      simp [PortRec.isUp, PortRec.isTraining, PortRec.isQuarantine, hl]
  | @goUp n hl =>
    refine portsKept_at ?_ fun q hq => enterUp_port_ne s hq
    unfold State.enterUp
    rw [State.port_raise, State.port_setPort_same]
    have hkept : PortKept (s.port p) { s.port p with link := .up 0 none } := by
      refine ⟨fun h => ?_, rfl⟩
      obtain ⟨hs, htest, hleaks⟩ := portOk_iff.1 h
      obtain ⟨hq, ht⟩ := hs.queue.2.2 (by unfold PortRec.isUp; rw [hl])
      have htraining : (s.port p).isTraining = true := by unfold PortRec.isTraining; rw [hl]
      have he := enabled_of_link hs.enable (by rw [hl]; exact LinkState.noConfusion)
      refine portOk_move h hq ht rfl rfl rfl (fun _ => htest (.inr htraining)) ?_ ?_
      · unfold Leaks PortRec.isQuarantine at hleaks ⊢
        rw [hl] at hleaks
        exact hleaks
      · exact enableWf_of_enabled he LinkState.noConfusion
    exact hkept.trans (.of_same rfl)
  | relink run held hu =>
    obtain ⟨_, _, hl⟩ := isUp_link hu
    refine portsKept_setPort (.relink ?_ ?_ ?_ ?_) <;>
      simp [PortRec.isUp, PortRec.isTraining, PortRec.isQuarantine, hl]
  | loseLock hu => exact portsKept_trans (portsKept_loseLock hu) (portsKept_settle _ _)
  | beginFrame => exact portsKept_beginFrame s p
  | error e hp => exact portsKept_error hp _ e _
  | delimiter | noBufferByte => exact portsKept_setPort (.of_same rfl)
  | byte => exact portsKept_trans (portsKept_setPort (.of_same rfl)) (portsKept_of_ports rfl)
  | discarded =>
    exact portsKept_trans (portsKept_trans (portsKept_setPort (.of_same rfl)) (portsKept_dropRef? _ _))
      (portsKept_settle _ _)
  | classified _ _ ht =>
    exact portsKept_trans (portsKept_trans (portsKept_setPort (.of_same rfl)) (portsKept_classified ht))
      (portsKept_settle _ _)
  | @classifiedAnew b l u _ _ _ ha ht =>
    have hbuf : portsKept u (u.writeFrame b l) := portsKept_of_ports rfl
    exact portsKept_trans (portsKept_trans (portsKept_trans (portsKept_trans (portsKept_alloc ha) hbuf)
      (portsKept_setPort (.of_same rfl))) (portsKept_classified ht)) (portsKept_settle _ _)

/-! ### The other happenings -/

theorem portsKept_receive (s : State) (p : Port) (sym : Symbol) : portsKept s (s.receive p sym) :=
  kept_by_receive (P := portsKept s) p (fun _ _ hst h => portsKept_trans h (portsKept_stroke hst)) (portsKept_refl s) sym

theorem portsKept_signalOn (s : State) (p : Port) : portsKept s (s.signalOn p) := by
  have hsignal : portsKept s (s.setPort p { s.port p with signal := true }) := portsKept_setPort (.of_same rfl)
  unfold State.signalOn
  dsimp only
  split
  · next hl =>
    have hl' : ((s.setPort p { s.port p with signal := true }).port p).link = .down := by
      rw [State.port_setPort_same]; exact hl
    refine portsKept_trans hsignal (portsKept_enterTraining ?_ ?_ ?_)
    · rw [hl']
      exact LinkState.noConfusion
    · unfold PortRec.isUp
      rw [hl']
    · exact fun h => leaks_of_portOk h (by unfold PortRec.isQuarantine; rw [hl'])
  all_goals exact hsignal

theorem portsKept_scoreRise {s : State} {p : Port} (hl : (s.port p).link = .down) (e : RxError) :
    portsKept s (s.scoreRise p (errorWeight e)) :=
  portsKept_at (by rw [scoreRise_port, if_pos rfl]; exact .risen_down hl _ (errorWeight_pos e) _)
    fun q hq => by rw [scoreRise_port, if_neg hq]

theorem portsKept_runtAtSignalLoss {s : State} {p : Port} (hl : (s.port p).link = .down) :
    portsKept s (s.runtAtSignalLoss p) := by
  unfold State.runtAtSignalLoss
  split
  · next b l hx =>
    refine portsKept_trans ?_ (portsKept_scoreRise (by rw [dropRef?_port, State.port_setPort_same]; exact hl) _)
    exact portsKept_trans (portsKept_setPort (.of_same rfl)) (portsKept_dropRef? _ b)
  · exact portsKept_setPort (.of_same rfl)

theorem portsKept_discardAtSignalLoss (s : State) (p : Port) : portsKept s (s.discardAtSignalLoss p) := by
  unfold State.discardAtSignalLoss
  split
  · exact portsKept_trans (portsKept_setPort (.of_same rfl)) (portsKept_dropRef? _ _)
  · exact portsKept_setPort (.of_same rfl)

theorem discardAtSignalLoss_link (s : State) (p : Port) :
    ((s.discardAtSignalLoss p).port p).link = (s.port p).link := by
  unfold State.discardAtSignalLoss
  split
  · rw [dropRef?_port, State.port_setPort_same]
  · rw [State.port_setPort_same]

/-- QUARANTINE ended by a loss of signal: DOWN, the score kept, the leak resumed (R131, R135). -/
theorem PortKept.resumed {x : PortRec} {e : Instant} (hl : x.link = .quarantine e) (next : Instant) :
    PortKept x { x with link := .down, nextLeak := if x.score = 0 then none else some next } := by
  refine ⟨fun h => ?_, rfl⟩
  obtain ⟨hs, -, -⟩ := portOk_iff.1 h
  obtain ⟨hq, ht⟩ := hs.queue.2.2 (by unfold PortRec.isUp; rw [hl])
  have he := enabled_of_link hs.enable (by rw [hl]; exact LinkState.noConfusion)
  refine portOk_move h hq ht rfl rfl rfl ?_ ?_ ?_
  · simp [Tested, PortRec.isUp, PortRec.isTraining]
  · unfold Leaks PortRec.isQuarantine
    dsimp only
    split
    · next h0 => simp [h0]
    · next h0 => simp only [Option.isSome_some, and_true, true_iff]; omega
  · exact enableWf_of_enabled he LinkState.noConfusion

theorem portsKept_signalOff (s : State) (p : Port) : portsKept s (s.signalOff p) := by
  have hsignal : portsKept s (s.setPort p { s.port p with signal := false }) := portsKept_setPort (.of_same rfl)
  unfold State.signalOff
  dsimp only
  have hport : (s.setPort p { s.port p with signal := false }).port p = { s.port p with signal := false } :=
    State.port_setPort_same s p _
  generalize s.setPort p { s.port p with signal := false } = t at hsignal hport
  have hlink : (t.port p).link = (s.port p).link := by rw [hport]
  split
  · exact hsignal
  · exact hsignal
  · next n hl =>
    rw [hl] at hlink
    refine portsKept_trans hsignal (portsKept_setPort ⟨fun h => ?_, rfl⟩)
    obtain ⟨hs, -, hleaks⟩ := portOk_iff.1 h
    obtain ⟨hq, ht⟩ := hs.queue.2.2 (by unfold PortRec.isUp; rw [hlink])
    have he := enabled_of_link hs.enable (by rw [hlink]; exact LinkState.noConfusion)
    refine portOk_move h hq ht rfl rfl rfl (by simp [Tested, PortRec.isUp, PortRec.isTraining]) ?_ ?_
    · unfold Leaks PortRec.isQuarantine at hleaks ⊢
      rw [hlink] at hleaks
      exact hleaks
    · exact enableWf_of_enabled he LinkState.noConfusion
  · next run held hl =>
    have hu : (t.port p).isUp = true := by unfold PortRec.isUp; rw [hlink, hl]
    have hdown : ((t.leaveUp p .down).port p).link = .down := by rw [leaveUp_port, if_pos rfl]
    exact portsKept_trans (portsKept_trans (portsKept_trans hsignal (portsKept_leaveUp hu (.inl rfl)))
      (portsKept_runtAtSignalLoss hdown)) (portsKept_settle _ _)
  · next e hl =>
    rw [hl] at hlink
    have hlink' : ((t.discardAtSignalLoss p).port p).link = .quarantine e :=
      (discardAtSignalLoss_link t p).trans hlink
    refine portsKept_trans (portsKept_trans (portsKept_trans hsignal (portsKept_discardAtSignalLoss t p)) ?_)
      (portsKept_settle _ _)
    generalize t.discardAtSignalLoss p = u at hlink'
    refine portsKept_at (p := p) ?_ fun q hq => ?_
    · unfold State.resumeLeak
      dsimp only
      rw [State.port_setPort_same, State.port_setPort_same]
      exact .resumed hlink' _
    · unfold State.resumeLeak
      rw [State.port_setPort_ne _ _ hq, State.port_setPort_ne _ _ hq]

theorem portsKept_leak {s : State} {p : Port} (hd : s.leakDue p = true) : portsKept s (s.leakStep p) := by
  have hnext : (s.port p).nextLeak.isSome = true := by
    unfold State.leakDue at hd
    cases hn : (s.port p).nextLeak with
    | none => rw [hn] at hd; cases hd
    | some e => rfl
  unfold State.leakStep
  dsimp only
  refine portsKept_at ?_ fun q hq => by rw [warnedTest_port, if_neg hq, State.port_setPort_ne _ _ hq]
  rw [warnedTest_port, if_pos rfl, State.port_setPort_same]
  generalize s.port p = x at hnext
  refine ⟨fun h => ?_, rfl⟩
  obtain ⟨hs, htest, hleaks⟩ := portOk_iff.1 h
  obtain ⟨hpos, hq⟩ := hleaks.1 hnext
  refine portOk_iff.2 ⟨sound_warnedTest hs.cfg hs.queue ((Nat.sub_le _ _).trans hs.score) hs.enable,
    fun ht => Nat.lt_of_le_of_lt (Nat.sub_le _ _) (htest ht), ?_⟩
  show (if x.score - 1 = 0 then none else x.nextLeak.map _).isSome = true ↔ 0 < x.score - 1 ∧ x.isQuarantine = false
  rw [hq]
  split
  · next h0 => simp [h0]
  · next h0 =>
    rw [Option.isSome_map]
    exact iff_of_true hnext ⟨Nat.pos_of_ne_zero h0, rfl⟩

theorem portsKept_endQuarantine {s : State} {p : Port} (hq : (s.port p).isQuarantine = true) :
    portsKept s (s.endQuarantine p) := by
  obtain ⟨e, hl⟩ := isQuarantine_link hq
  have hzero : PortKept (s.port p) { s.port p with score := 0, warned := false, nextLeak := none } := by
    refine ⟨fun h => ?_, rfl⟩
    obtain ⟨hs, -, -⟩ := portOk_iff.1 h
    refine portOk_iff.2 ⟨⟨hs.cfg, hs.queue, Nat.zero_le _, fun h => Bool.noConfusion h, fun _ => ?_, hs.enable⟩,
      fun ht => ?_, ?_⟩
    · obtain ⟨-, -, -, hw, -⟩ := hs.cfg
      exact hw
    · simp [PortRec.isUp, PortRec.isTraining, hl] at ht
    · simp [Leaks]
  unfold State.endQuarantine
  refine portsKept_trans (portsKept_setPort hzero) (portsKept_enterTraining ?_ ?_ ?_)
  · rw [State.port_setPort_same]
    dsimp only
    rw [hl]
    exact LinkState.noConfusion
  · rw [State.port_setPort_same]
    unfold PortRec.isUp
    dsimp only
    rw [hl]
  · rw [State.port_setPort_same]
    exact fun _ => iff_of_false Bool.noConfusion (Nat.lt_irrefl 0)

theorem portsKept_select (s : State) (p : Port) : portsKept s (s.select p) := by
  unfold State.select
  split
  · next hc =>
    dsimp only
    have hu : (s.port p).isUp = true := by
      unfold PortRec.canSelect at hc
      simp only [Bool.and_eq_true] at hc
      exact hc.1.1.1
    refine portsKept_at ?_ fun q hq => by rw [noticeLeft_port, dropRefs_port, State.port_setPort_ne _ _ hq]
    rw [noticeLeft_port, dropRefs_port, State.port_setPort_same]
    have hsplit := selectFrom_split (s.port p).cfg.ageLimit s.localTime (s.port p).queue
    generalize selectFrom (s.port p).cfg.ageLimit s.localTime (s.port p).queue = o at hsplit
    have hsuffix : o.2.2.Sublist (s.port p).queue := by
      rw [← hsplit]
      exact List.sublist_append_right _ _
    refine ⟨fun h => ?_, rfl⟩
    obtain ⟨hs, htest, hleaks⟩ := portOk_iff.1 h
    obtain ⟨hlength, hsorted, -⟩ := hs.queue
    exact portOk_iff.2 ⟨⟨hs.cfg, queueWf_up hu (hsuffix.length_le.trans hlength) (hsorted.sublist hsuffix), hs.score,
      hs.warned, hs.unwarned, hs.enable⟩, htest, hleaks⟩
  · exact portsKept_refl s

/-- A transmission that is over or goes on leaves a sound port. -/
theorem PortKept.transmitted (x : PortRec) (tx : Option Tx) (h : x.tx = none → tx = none) :
    PortKept x { x with tx := tx } := by
  refine ⟨fun hx => ?_, rfl⟩
  obtain ⟨hs, htest, hleaks⟩ := portOk_iff.1 hx
  obtain ⟨hlength, hsorted, hempty⟩ := hs.queue
  have hqueue : ({ x with tx := tx } : PortRec).queueWf :=
    ⟨hlength, hsorted, fun hu => ⟨(hempty hu).1, h (hempty hu).2⟩⟩
  exact portOk_iff.2 ⟨⟨hs.cfg, hqueue, hs.score, hs.warned, hs.unwarned, hs.enable⟩, htest, hleaks⟩

theorem dropRef_ports (s : State) (b : BufId) : (s.dropRef b).ports = s.ports := rfl

theorem portsKept_endTransmission (s : State) (p : Port) (x : Tx) : portsKept s (s.endTransmission p x) := by
  unfold State.endTransmission
  dsimp only
  refine portsKept_trans ?_ (portsKept_select _ p)
  refine portsKept_trans (portsKept_setPort ?_) (portsKept_of_ports (dropRef_ports _ _))
  exact (PortKept.transmitted (s.port p) none fun _ => rfl).trans (.of_same rfl)

theorem portsKept_flushAll (s : State) : portsKept s s.flushAll := by
  have hflush : ∀ (ps : List Port) (t : State), portsKept t (ps.foldl State.flushPort t) := by
    intro ps
    induction ps with
    | nil => exact portsKept_refl
    | cons p ps ih =>
      intro t
      rw [List.foldl_cons]
      exact portsKept_trans (portsKept_flush t p) (ih (t.flushPort p))
  unfold State.flushAll
  exact portsKept_trans (hflush _ s) (portsKept_settle _ s)

theorem portsKept_sendReply (s : State) (r : Taken) (payload : List Byte) : portsKept s (s.sendReply r payload) := by
  unfold State.sendReply
  split
  · refine portsKept_trans ?_ (portsKept_settle _ s)
    exact portsKept_of_ports rfl
  · next b u ha =>
    dsimp only
    refine portsKept_trans (portsKept_alloc ha) (portsKept_trans ?_ (portsKept_settle _ u))
    split
    · next hacc => exact portsKept_enqueue hacc _
    · exact portsKept_of_ports rfl

theorem alloc_canAccept {s t : State} {n : Nat} {b : BufId} (h : s.alloc n = some (b, t)) (p : Port) :
    (t.port p).canAccept = (s.port p).canAccept := by
  obtain ⟨_, _, rfl⟩ := alloc_some h
  rw [decideAtAlloc_port]
  rfl

/-- Notices raised do not touch the settings (R187, R193). -/
theorem pushNotice_cfg (u : NoticeUnit) (k : NoticeKind) (time : Instant) (subject : Byte) (detail : Half) :
    (pushNotice u k time subject detail).cfg = u.cfg := by
  unfold pushNotice
  split
  · split <;> rfl
  · rfl

theorem alloc_noticeConfig {s t : State} {n : Nat} {b : BufId} (h : s.alloc n = some (b, t)) :
    t.notices.cfg = s.notices.cfg := by
  obtain ⟨_, _, rfl⟩ := alloc_some h
  unfold State.decideAtAlloc
  split
  · rfl
  · split
    · exact pushNotice_cfg _ _ _ _ _
    · rfl

theorem portsKept_build (s : State) : portsKept s s.build := by
  unfold State.build
  split
  · next hc =>
    split
    · next b t ha =>
      have hacc : (t.port s.notices.cfg.dest).canAccept = true := by
        unfold State.sendCondition at hc
        rw [Bool.and_eq_true] at hc
        rw [alloc_canAccept ha]
        exact hc.2
      have hcfg : t.notices.cfg = s.notices.cfg := alloc_noticeConfig ha
      rw [← hcfg] at hacc
      exact portsKept_trans (portsKept_alloc ha) (portsKept_trans (portsKept_of_ports rfl)
        (portsKept_trans (portsKept_enqueue (s := t.writeFrame b _) hacc _) (portsKept_of_ports rfl)))
    · exact portsKept_refl s
  · exact portsKept_refl s

theorem portsKept_tick (s : State) : portsKept s s.tick := by
  cases hr : s.running with
  | false =>
    rw [tick_of_not_running hr]
    exact portsKept_refl s
  | true =>
    intro p
    rw [tick_port hr]
    unfold PortRec.symbolTime
    split
    · split
      · exact .of_same rfl
      · exact (PortKept.transmitted _ ((s.port p).tx.map fun t => { t with left := t.left - 1 })
          fun h => by rw [h]; rfl).trans (.of_same rfl)
    · exact .refl _

/-! ### The ports after power-on and FULL (R138, R142, R143) -/

theorem defaultPortConfig_wf (st : Straps) (p : Port) : (defaultPortConfig st p).wf := by
  unfold PortConfig.wf defaultPortConfig
  simp only
  omega

/-- A port with the default configuration, an empty queue and no score is sound in every state but DISABLED and
QUARANTINE. -/
theorem portOk_default {x : PortRec} {st : Straps} {p : Port} (hcfg : x.cfg = defaultPortConfig st p)
    (hqueue : x.queue = [] ∧ x.tx = none) (hscore : x.score = 0 ∧ x.warned = false ∧ x.nextLeak = none)
    (hlink : x.link ≠ .disabled) : portOk x := by
  obtain ⟨hs, hw, hn⟩ := hscore
  refine portOk_iff.2 ⟨⟨hcfg ▸ defaultPortConfig_wf st p, queueWf_empty hqueue.1 hqueue.2, by omega, ?_, fun _ => ?_,
    enableWf_of_enabled (by rw [hcfg]; rfl) hlink⟩, fun _ => ?_, ?_⟩
  · exact fun h => absurd (hw.symm.trans h) Bool.noConfusion
  · rw [hs, hcfg]
    exact Nat.zero_lt_succ 63
  · rw [hs, hcfg]
    exact Nat.zero_lt_succ 191
  · unfold Leaks
    rw [hn, hs]
    simp

theorem portOk_initialPort (st : Straps) (lanes : PortSet) (p : Port) : portOk (initialPort st lanes p) := by
  refine portOk_default rfl ⟨rfl, rfl⟩ ⟨rfl, rfl, rfl⟩ ?_
  unfold initialPort
  dsimp only
  split <;> exact LinkState.noConfusion

theorem resetLink_ne_disabled (x : PortRec) : resetLink x ≠ .disabled := by
  unfold resetLink
  split
  · exact LinkState.noConfusion
  · split <;> exact LinkState.noConfusion
  all_goals exact LinkState.noConfusion

theorem portOk_resetPort (st : Straps) (holding : Bool) (p : Port) (x : PortRec) :
    portOk (resetPort st holding p x) :=
  portOk_default rfl ⟨rfl, rfl⟩ ⟨rfl, rfl, rfl⟩ (resetLink_ne_disabled x)

theorem fullReset_port (s : State) (own : BufId) (p : Port) :
    (s.fullReset own).port p = resetPort s.straps s.pool.hold.isHolding p (s.port p) := get_ofFn _ p

/-- Port 0 is enabled and accepts management whatever the straps (R138). -/
theorem reachable_default {s : State} {st : Straps} (h : (s.port 0).cfg = defaultPortConfig st 0) : s.reachable := by
  refine ⟨0, by rw [h]; rfl, ?_⟩
  rw [h]
  show (!st.mgmtP0Only || (0 : Port) == 0) = true
  rw [beq_self_eq_true, Bool.or_true]

/-! ### Every step -/

theorem portsInv_kept {s t : State} (h : portsKept s t) (hs : s.portsInv) : t.portsInv := fun p => (h p).ok (hs p)

theorem reachable_kept {s t : State} (h : portsKept s t) (hs : s.reachable) : t.reachable := by
  obtain ⟨p, he, ha⟩ := hs
  refine ⟨p, ?_⟩
  rw [(h p).cfg]
  exact ⟨he, ha⟩

/-- What a command of the Agent does to the ports: no more than an operation may, but for SET_PORT and FULL. -/
inductive PortsCarried (s t : State) : Prop
  | kept (h : portsKept s t)
  | configured (p own : Port) (c : PortConfig) (hc : c.wf) (hl : s.lockedOut own p c = false)
      (ht : ∀ q, ∃ l, t.port q = { if q = p then (configured (s.port p) c s.notices p s.localTime s.cellTime).1
        else s.port q with ctl := l })
  | reset (st : Straps) (holding : Bool) (ht : ∀ p, t.port p = resetPort st holding p (s.port p))

theorem portsCarried_applyConfig (s : State) (p own : Port) {c : PortConfig} (hc : c.wf)
    (hl : s.lockedOut own p c = false) : PortsCarried s (s.applyConfig p c) := by
  have h := released_applyConfig s p c
  dsimp only at h
  refine .configured p own c hc hl fun q => ?_
  by_cases hq : q = p
  · rw [if_pos hq, hq, h.own]
    exact ⟨_, rfl⟩
  · rw [if_neg hq, h.others q hq]
    exact ⟨_, rfl⟩

theorem portsCarried {r : Taken} {s t : State} {row : Instr} (hc : Carried r s row t) : PortsCarried s t := by
  cases hc with
  | same => exact .kept (portsKept_refl s)
  | clearPort p => exact .kept (portsKept_setPort (.of_same rfl))
  | clearHits first count => exact .kept (portsKept_of_ports (by rw [State.clearHits_ports]))
  | adjust step => exact .kept (portsKept_of_ports (by rw [adjustOffset_frame]))
  | write b => exact .kept (portsKept_of_ports (by rw [renew_frame]; rfl))
  | renew => exact .kept (portsKept_of_ports (by rw [renew_frame]))
  | commit => exact .kept (portsKept_of_ports (by rw [swap_frame]))
  | abandon => exact .kept (portsKept_of_ports (by rw [startMirror_frame]))
  | configure p hm hl => exact portsCarried_applyConfig s p r.port (portConfigOf_wf hm) hl
  | release p hq => exact .kept (portsKept_trans (portsKept_endQuarantine hq) (portsKept_settle _ s))
  | traffic =>
    have hflush := portsKept_flushAll s
    unfold State.trafficReset
    generalize s.flushAll = u at hflush ⊢
    exact .kept (portsKept_trans hflush (portsKept_of_ports rfl))
  | full => exact .reset _ _ (fullReset_port s r.buf)
  | clearPool | clearAgent | lease | schedule | clearFlow | armFlow | zeroFlow | setNotices =>
    exact .kept (portsKept_of_ports rfl)

theorem portsInv_carried {s t : State} (hc : PortsCarried s t) (h : s.portsInv) : t.portsInv := by
  cases hc with
  | kept hk => exact portsInv_kept hk h
  | configured p own c hc hl ht =>
    intro q
    obtain ⟨l, hq⟩ := ht q
    rw [hq]
    split
    · exact portOk_configured (h p) hc _ _ _ _
    · exact h q
  | reset st holding ht =>
    intro p
    rw [ht p]
    exact portOk_resetPort st holding p _

theorem configured_cfg (x : PortRec) (c : PortConfig) (u : NoticeUnit) (p : Port) (now time : Instant) :
    (configured x c u p now time).1.cfg = c := by
  have henabled : (enableApplied { x with cfg := c } x.cfg.enable u p now time).1.cfg = c := by
    unfold enableApplied
    split
    · rfl
    · split
      · dsimp only
        split <;> rfl
      · rfl
  unfold configured
  dsimp only
  generalize enableApplied { x with cfg := c } x.cfg.enable u p now time = a at henabled
  have hleak : (if c.leakInterval = x.cfg.leakInterval then a.1
      else { a.1 with nextLeak := a.1.nextLeak.map fun _ => now + BitVec.ofNat 32 (c.leakInterval * 1000) }).cfg = c := by
    split <;> exact henabled
  generalize (if c.leakInterval = x.cfg.leakInterval then a.1
      else { a.1 with nextLeak := a.1.nextLeak.map fun _ => now + BitVec.ofNat 32 (c.leakInterval * 1000) }) = y
    at hleak
  split
  · unfold quarantined
    dsimp only
    split <;> exact hleak
  · exact hleak

/-- SET_PORT's lockout check leaves a port enabled and accepting (R178). -/
theorem reachable_carried {s t : State} (hc : PortsCarried s t) (h : s.reachable) : t.reachable := by
  cases hc with
  | kept hk => exact reachable_kept hk h
  | configured p own c hc hl ht =>
    unfold State.lockedOut at hl
    rw [Bool.or_eq_false_iff, Bool.not_eq_false', List.any_eq_true] at hl
    obtain ⟨⟨q, -, hq⟩, -⟩ := hl
    obtain ⟨l, hport⟩ := ht q
    refine ⟨q, ?_⟩
    rw [hport, ← Bool.and_eq_true]
    dsimp only at hq ⊢
    split at hq
    · next hqp => rwa [if_pos hqp, configured_cfg]
    · next hqp => rwa [if_neg hqp]
  | reset st holding ht => exact reachable_default (st := st) (by rw [ht 0]; rfl)

/-- A happening moves the ports as an operation may, or the port's record is as power-on leaves it, or it is a taking,
which keeps what every command keeps. -/
theorem kept_by_ports {P : State → Prop} (hkept : ∀ s t, portsKept s t → P s → P t)
    (hcarried : ∀ s t, PortsCarried s t → P s → P t)
    (hinitial : ∀ (s : State) st lanes, (∀ p, s.port p = initialPort st lanes p) → P s) :
    ∀ s t, P s → step s = .next t → P t := by
  have hports : ∀ (s t : State), t.ports = s.ports → P s → P t := fun s t h =>
    hkept s t (portsKept_of_ports h)
  refine kept_by_step (fun s cs => hports s _ rfl) (fun c s t hc h => ?_) fun s => hkept s _ (portsKept_tick s)
  cases hc with
  | nothing => exact h
  | powerOn st lanes => exact hinitial _ st lanes (powerOn_port st lanes)
  | resetHeld => exact hinitial _ s.straps 0 (powerOn_port s.straps 0)
  | received p sym => exact hkept s _ (portsKept_receive s p sym) h
  | signalOn p => exact hkept s _ (portsKept_signalOn s p) h
  | signalOff p => exact hkept s _ (portsKept_signalOff s p) h
  | holdExpiry p _ hd =>
    refine hkept s _ (portsKept_setPort ?_) h
    unfold State.holdExpiryDue at hd
    split at hd
    · next run e hl =>
      refine .relink ?_ ?_ ?_ ?_ <;>
        simp [PortRec.isUp, PortRec.isTraining, PortRec.isQuarantine, clearHold, hl]
    · cases hd
  | leak p _ hd => exact hkept s _ (portsKept_leak hd) h
  | quarantineEnd p _ hd =>
    have hq : (s.port p).isQuarantine = true := by
      unfold State.quarantineDue at hd
      split at hd
      · next e hl =>
        unfold PortRec.isQuarantine
        rw [hl]
      · cases hd
    exact hkept s _ (portsKept_trans (portsKept_endQuarantine hq) (portsKept_settle _ s)) h
  | holdRepeat => exact hkept s _ (portsKept_trans (portsKept_of_ports rfl) (portsKept_sendToUp _ .hold)) h
  | selection p => exact hkept s _ (portsKept_trans (portsKept_select s p) (portsKept_settle _ s)) h
  | transmissionEnd p =>
    exact hkept s _ (portsKept_trans (portsKept_endTransmission s p _) (portsKept_settle _ s)) h
  | deadlineExpiry i =>
    refine hports s _ ?_ h
    unfold State.expireFlow
    dsimp only
    split <;> rfl
  | leaseExpiry => exact hports s _ (by rw [startMirror_frame]; rfl) h
  | activation => exact hports s _ (by rw [swap_frame]) h
  | mirrorStep => exact hports s _ (by rw [mirrorCopy_frame]) h
  | fillUp | agentReady | entryExpiry => exact hports s _ rfl h
  | @malformed r =>
    rw [takeMalformed_eq]
    refine hkept s _ (portsKept_trans ?_ (portsKept_settle _ s)) h
    exact portsKept_of_ports rfl
  | @replay r =>
    exact kept_by_takeReplay (P := P) (fun u _ => hports u _ rfl)
      (fun u r l => hkept u _ (portsKept_sendReply u r l)) r h
  | carriedOut _ _ hc =>
    exact kept_by_carryOut (P := P) (fun u _ => hports u _ rfl) (fun _ u v _ hc => hcarried u v (portsCarried hc))
      (fun u r l => hkept u _ (portsKept_sendReply u r l)) h hc
  | build => exact hkept s _ (portsKept_build s) h

/-- Settles O56: every happening moves each port as `PortKept` has it, but for SET_PORT, power-on and FULL, which give
it a configuration within the bounds. -/
theorem everyStepKeepsThePorts : Obligations.EveryStepKeepsThePorts := by
  refine ⟨kept_by_ports (fun _ _ => portsInv_kept) (fun _ _ => portsInv_carried) fun s st lanes h p => ?_,
    kept_by_ports (fun _ _ => reachable_kept) (fun _ _ => reachable_carried) fun s st lanes h => ?_⟩
  · rw [h p]
    exact portOk_initialPort st lanes p
  · exact reachable_default (st := st) (by rw [h 0]; rfl)

end Sys2Proof.LinkPorts
end

section
/-! The happenings of one port: each operation as a step that carries a `Moved` on, and so the outcome of signals, leaks,
quarantines, symbols outside UP, receive errors and selections (06, 07). -/

namespace Sys2Proof.PortMoves
open Sys2Proof.Machine Sys2Proof.Happenings Sys2Proof.Frames Sys2Proof.Course

/-! ### Operations that carry a move on -/

section
variable {s v : State} {p : Port} {x : PortRec} {bs : List BufId} {u : NoticeUnit}

theorem moved_localTime (h : Moved s v p x bs u) : v.localTime = s.localTime := by rw [h.rest]

theorem moved_cellTime (h : Moved s v p x bs u) : v.cellTime = s.cellTime := by
  unfold State.cellTime
  rw [h.rest]

theorem moved_then_setPort (h : Moved s v p x bs u) (y : PortRec) : Moved s (v.setPort p y) p y bs u := by
  have hset := moved_setPort v p y
  rw [h.notices] at hset
  have htrans := h.trans hset
  rwa [List.append_nil] at htrans

theorem moved_dropRef? (s : State) (p : Port) (b : Option BufId) :
    Moved s (s.dropRef? b) p (s.port p) b.toList s.notices :=
  ⟨dropRef?_sameButLinks s b, dropRef?_port s b p, fun q _ => dropRef?_port s b q, dropRef?_buf s b,
    dropRef?_pool s b, dropRef?_notices s b⟩

theorem moved_dropRef (s : State) (p : Port) (b : BufId) : Moved s (s.dropRef b) p (s.port p) [b] s.notices :=
  moved_dropRef? s p (some b)

theorem moved_dropRefs (s : State) (p : Port) (cs : List BufId) : Moved s (s.dropRefs cs) p (s.port p) cs s.notices :=
  ⟨dropRefs_sameButLinks s cs, dropRefs_port s cs p, fun q _ => dropRefs_port s cs q, dropRefs_buf_less s cs,
    dropRefs_pool s cs, dropRefs_notices s cs⟩

theorem moved_noticeLeft (s : State) (p : Port) (es : List QueueEntry) :
    Moved s (s.noticeLeft es) p (s.port p) [] (noticesAfter s.notices es) := by
  rw [noticeLeft_eq]
  exact ⟨rfl, rfl, fun _ _ => rfl, fun _ => rfl, rfl, rfl⟩

theorem moved_then_dropRef? (h : Moved s v p x bs u) (b : Option BufId) :
    Moved s (v.dropRef? b) p x (bs ++ b.toList) u := by
  have hd := moved_dropRef? v p b
  rw [h.own, h.notices] at hd
  exact h.trans hd

theorem moved_then_dropRefs (h : Moved s v p x bs u) (cs : List BufId) : Moved s (v.dropRefs cs) p x (bs ++ cs) u := by
  have hd := moved_dropRefs v p cs
  rw [h.own, h.notices] at hd
  exact h.trans hd

theorem moved_then_noticeLeft (h : Moved s v p x bs u) (es : List QueueEntry) :
    Moved s (v.noticeLeft es) p x bs (noticesAfter u es) := by
  have hl := moved_noticeLeft v p es
  rw [h.own, h.notices] at hl
  have htrans := h.trans hl
  rwa [List.append_nil] at htrans

theorem moved_then_leaveUp (h : Moved s v p x bs u) (d : LinkState) :
    Moved s (v.leaveUp p d) p { flushed x with link := d, ctl := [] } (bs ++ flushedRefs x)
      (pushNotice (noticesAfter u x.queue) .portDown s.cellTime (byteOf p) ((linkCode d).setWidth 16)) := by
  have hl := moved_leaveUp v p d
  rw [h.own, h.notices, moved_cellTime h] at hl
  exact h.trans hl

theorem moved_then_dropReception (h : Moved s v p x bs u) :
    Moved s (v.dropReception p) p { x with rx := .idle } (bs ++ rxRefs x) u := by
  have hd := moved_dropReception v p
  rw [h.own, h.notices] at hd
  exact h.trans hd

theorem moved_then_resumeLeak (h : Moved s v p x bs u) :
    Moved s (v.resumeLeak p) p
      { x with
        nextLeak := if x.score = 0 then none
          else some (s.localTime + BitVec.ofNat 32 (x.cfg.leakInterval * 1000)) } bs u := by
  have hr := moved_resumeLeak v p
  rw [h.own, h.notices, moved_localTime h] at hr
  have htrans := h.trans hr
  rwa [List.append_nil] at htrans

theorem moved_then_warnedTest (h : Moved s v p x bs u) :
    Moved s (v.warnedTest p) p { x with warned := warnedAfter x } bs
      (warnedNotices u p x { x with warned := warnedAfter x } s.cellTime) := by
  have hw := moved_warnedTest v p
  rw [h.own, h.notices, moved_cellTime h] at hw
  have htrans := h.trans hw
  rwa [List.append_nil] at htrans

theorem moved_then_scoreRise (h : Moved s v p x bs u) (w : Nat) :
    Moved s (v.scoreRise p w) p (risen x w (s.localTime + BitVec.ofNat 32 (x.cfg.leakInterval * 1000))) bs
      (warnedNotices u p x (risen x w (s.localTime + BitVec.ofNat 32 (x.cfg.leakInterval * 1000))) s.cellTime) := by
  have hl : v.leakFromNow x = s.localTime + BitVec.ofNat 32 (x.cfg.leakInterval * 1000) := by
    unfold State.leakFromNow State.after
    rw [moved_localTime h]
  unfold State.scoreRise
  dsimp only
  rw [h.own, hl]
  exact moved_then_warnedTest (moved_then_setPort h _)

theorem moved_then_enterQuarantine (h : Moved s v p x bs u) :
    Moved s (v.enterQuarantine p) p
      (quarantined x (s.localTime + BitVec.ofNat 32 (x.cfg.quarantineHold * 100000)))
      (bs ++ if x.isUp then flushedRefs x else [])
      (pushNotice (if x.isUp then noticesAfter u x.queue else u) .portQuarantined s.cellTime (byteOf p)
        (BitVec.ofNat 16 x.score)) := by
  have hq := moved_enterQuarantine v p
  rw [h.own, h.notices, moved_localTime h, moved_cellTime h] at hq
  exact h.trans hq

/-- Entry to TRAINING with a score below the threshold (R121). -/
theorem moved_then_enterTraining (h : Moved s v p x bs u) (hs : x.score < x.cfg.quarantineThreshold) :
    Moved s (v.enterTraining p) p (training x) (bs ++ rxRefs x) u := by
  have hd := moved_then_dropReception h
  unfold State.enterTraining
  dsimp only
  have ht := moved_then_setPort hd { (v.dropReception p).port p with link := .training 0 }
  rw [hd.own] at ht ⊢
  generalize (v.dropReception p).setPort p _ = w at ht
  have hq := moved_quarantineTest_none (s := w) (p := p) (.inr (by rw [ht.own]; exact hs))
  rw [ht.own, ht.notices] at hq
  have htrans := ht.trans hq
  rwa [List.append_nil] at htrans

/-- Entry to TRAINING with a score kept at or above the threshold: QUARANTINE at once (R121, R133). -/
theorem moved_then_enterTraining_at (h : Moved s v p x bs u) (hs : x.cfg.quarantineThreshold ≤ x.score) :
    Moved s (v.enterTraining p) p
      (quarantined (training x) (s.localTime + BitVec.ofNat 32 (x.cfg.quarantineHold * 100000))) (bs ++ rxRefs x)
      (pushNotice u .portQuarantined s.cellTime (byteOf p) (BitVec.ofNat 16 x.score)) := by
  have hd := moved_then_dropReception h
  unfold State.enterTraining
  dsimp only
  have ht := moved_then_setPort hd { (v.dropReception p).port p with link := .training 0 }
  rw [hd.own] at ht ⊢
  generalize (v.dropReception p).setPort p _ = w at ht
  rw [quarantineTest_enters (by rw [ht.own]; rfl) (by rw [ht.own]; exact hs)]
  have hq := moved_then_enterQuarantine (x := training x) ht
  have hup : (training x).isUp = false := rfl
  rw [hup, if_neg Bool.false_ne_true, if_neg Bool.false_ne_true, List.append_nil] at hq
  exact hq

end

/-- A move that gives no reference back is a change of one record and the notices. -/
theorem moved_nil {s v : State} {p : Port} {x : PortRec} {u : NoticeUnit} (h : Moved s v p x [] u) :
    v = { s.setPort p x with notices := u } := by
  have hports : v.ports = s.ports.set p x := by
    apply ext_get
    intro q
    rw [get_set]
    split
    · next hq => rw [hq]; exact h.own
    · next hq => exact h.others q hq
  have hpool : v.pool = s.pool := by
    refine pool_ext (fun b => ?_) ?_ ?_ ?_
    · exact (h.bufs b).trans (less_zero _)
    all_goals rw [h.pool]
  rw [h.rest, h.notices, hports, hpool]
  rfl

/-- A happening that gives no reference back leaves the hold state as it was. -/
theorem released_nil {s t : State} {p : Port} {x : PortRec} {u : NoticeUnit} (h : Released s t p x [] u) :
    t = { s.setPort p x with notices := u } := by
  have hbuf : ∀ b, t.buf b = s.buf b := fun b => (h.bufs b).trans (less_zero _)
  have hresumed : s.resumed t = false := by
    unfold State.resumed
    rw [freeCount_congr hbuf]
    simp
  have hpool : t.pool = s.pool := by
    refine pool_ext hbuf ?_ ?_ ?_
    all_goals rw [h.pool]
    rw [hresumed]
    rfl
  have hport : ∀ q, t.port q = if q = p then x else s.port q := by
    intro q
    split
    · next hq =>
      rw [hq, h.own, hresumed]
      simp
    · next hq =>
      rw [h.others q hq, hresumed]
      simp
  have hports : t.ports = s.ports.set p x := by
    apply ext_get
    intro q
    rw [get_set]
    exact hport q
  rw [h.rest, hports, hpool]
  rfl

/-- The references a port's reception gives back. -/
theorem rxRefs_of_none {x : PortRec} (h : x.rx.inside = none) : rxRefs x = [] := by
  unfold rxRefs
  cases hx : x.rx with
  | idle => rfl
  | ignoring => rfl
  | stripped l => rfl
  | frame b l => rw [hx] at h; cases h

theorem rxRefs_of_inside {x : PortRec} {b : Option BufId} {l : List Byte} (h : x.rx.inside = some (b, l)) :
    rxRefs x = b.toList := by
  unfold rxRefs
  cases hx : x.rx with
  | idle => rw [hx] at h; cases h
  | ignoring => rw [hx] at h; cases h
  | stripped m => rw [hx] at h; cases h; rfl
  | frame o m => rw [hx] at h; cases h; cases b <;> rfl

/-! ### Signals (R120, R123, R129, R135) -/

theorem running_signalOn {s : State} (hr : s.running = true) (p : Port) :
    exec (.signalDetected p) s = .next (s.signalOn p) := by
  show execSignalDetected p s = _
  unfold execSignalDetected
  rw [if_pos hr]

theorem running_signalOff {s : State} (hr : s.running = true) (p : Port) :
    exec (.signalLost p) s = .next (s.signalOff p) := by
  show execSignalLost p s = _
  unfold execSignalLost
  rw [if_pos hr]

theorem signalOn_of_down {s : State} {p : Port} (h : (s.port p).link = .down) :
    s.signalOn p = (s.setPort p { s.port p with signal := true }).enterTraining p := by
  unfold State.signalOn
  rw [h]

theorem signalOn_of_ne_down {s : State} {p : Port} (h : (s.port p).link ≠ .down) :
    s.signalOn p = s.setPort p { s.port p with signal := true } := by
  unfold State.signalOn
  cases hl : (s.port p).link with
  | down => exact absurd hl h
  | _ => rfl

theorem signalOff_of_quarantine {s : State} {p : Port} {e : Instant} (h : (s.port p).link = .quarantine e) :
    s.signalOff p = (((((s.setPort p { s.port p with signal := false }).discardAtSignalLoss p).setPort p
      { ((s.setPort p { s.port p with signal := false }).discardAtSignalLoss p).port p with link := .down }).resumeLeak
        p).settle s) := by
  unfold State.signalOff
  rw [h]

theorem signalOff_of_up {s : State} {p : Port} (h : (s.port p).isUp = true) :
    s.signalOff p =
      (((s.setPort p { s.port p with signal := false }).leaveUp p .down).runtAtSignalLoss p).settle s := by
  obtain ⟨_, _, hl⟩ := isUp_link h
  unfold State.signalOff
  rw [hl]

section
variable {s v : State} {p : Port} {x : PortRec} {bs : List BufId} {u : NoticeUnit}

theorem moved_then_discard (h : Moved s v p x bs u) {b : Option BufId} {l : List Byte} (hx : x.rx.inside = some (b, l)) :
    Moved s (v.discardAtSignalLoss p) p
      { x with rx := .idle, counters := countDiscard true b.isSome (countError .runt x.counters) } (bs ++ b.toList) u := by
  unfold State.discardAtSignalLoss
  rw [h.own, hx]
  exact moved_then_dropRef? (moved_then_setPort h _) b

theorem moved_then_discard_none (h : Moved s v p x bs u) (hx : x.rx.inside = none) :
    Moved s (v.discardAtSignalLoss p) p { x with rx := .idle } bs u := by
  unfold State.discardAtSignalLoss
  rw [h.own, hx]
  exact moved_then_setPort h _

theorem moved_then_runt (h : Moved s v p x bs u) {b : Option BufId} {l : List Byte} (hx : x.rx.inside = some (b, l)) :
    let y := { x with rx := .idle, counters := countDiscard false b.isSome (countError .runt x.counters) }
    let z := risen y 2 (s.localTime + BitVec.ofNat 32 (x.cfg.leakInterval * 1000))
    Moved s (v.runtAtSignalLoss p) p z (bs ++ b.toList) (warnedNotices u p y z s.cellTime) := by
  unfold State.runtAtSignalLoss
  rw [h.own, hx]
  exact moved_then_scoreRise (moved_then_dropRef? (moved_then_setPort h _) b) 2

theorem moved_then_runt_none (h : Moved s v p x bs u) (hx : x.rx.inside = none) :
    Moved s (v.runtAtSignalLoss p) p { x with rx := .idle } bs u := by
  unfold State.runtAtSignalLoss
  rw [h.own, hx]
  exact moved_then_setPort h _

end

theorem released_signalOff_quarantine {s : State} {p : Port} {e : Instant} (hl : (s.port p).link = .quarantine e)
    {b : Option BufId} {l : List Byte} (hx : (s.port p).rx.inside = some (b, l)) :
    Released s (s.signalOff p) p
      { s.port p with
        signal := false, rx := .idle, link := .down
        counters := countDiscard true b.isSome (countError .runt (s.port p).counters)
        nextLeak := if (s.port p).score = 0 then none
          else some (s.localTime + BitVec.ofNat 32 ((s.port p).cfg.leakInterval * 1000)) } b.toList s.notices := by
  rw [signalOff_of_quarantine hl]
  have hd := moved_then_discard (moved_setPort s p { s.port p with signal := false }) hx
  rw [hd.own]
  exact (moved_then_resumeLeak (moved_then_setPort hd _)).settle

theorem released_signalOff_quarantine_none {s : State} {p : Port} {e : Instant} (hl : (s.port p).link = .quarantine e)
    (hx : (s.port p).rx.inside = none) :
    Released s (s.signalOff p) p
      { s.port p with
        signal := false, rx := .idle, link := .down
        nextLeak := if (s.port p).score = 0 then none
          else some (s.localTime + BitVec.ofNat 32 ((s.port p).cfg.leakInterval * 1000)) } [] s.notices := by
  rw [signalOff_of_quarantine hl]
  have hd := moved_then_discard_none (moved_setPort s p { s.port p with signal := false }) hx
  rw [hd.own]
  exact (moved_then_resumeLeak (moved_then_setPort hd _)).settle

theorem released_signalOff_up {s : State} {p : Port} (hu : (s.port p).isUp = true) {b : Option BufId} {l : List Byte}
    (hx : (s.port p).rx.inside = some (b, l)) :
    let x := { flushed { s.port p with signal := false } with link := .down, ctl := [] }
    let y := { x with rx := .idle, counters := countDiscard false b.isSome (countError .runt x.counters) }
    let z := risen y 2 (s.localTime + BitVec.ofNat 32 (x.cfg.leakInterval * 1000))
    Released s (s.signalOff p) p z (flushedRefs (s.port p) ++ b.toList)
      (warnedNotices (pushNotice (noticesAfter s.notices (s.port p).queue) .portDown s.cellTime (byteOf p) 1) p y z
        s.cellTime) := by
  rw [signalOff_of_up hu]
  have hleft := moved_then_leaveUp (moved_setPort s p { s.port p with signal := false }) .down
  exact (moved_then_runt hleft hx).settle

theorem released_signalOff_up_none {s : State} {p : Port} (hu : (s.port p).isUp = true)
    (hx : (s.port p).rx.inside = none) :
    Released s (s.signalOff p) p
      { flushed { s.port p with signal := false } with link := .down, ctl := [], rx := .idle } (flushedRefs (s.port p))
      (pushNotice (noticesAfter s.notices (s.port p).queue) .portDown s.cellTime (byteOf p) 1) := by
  rw [signalOff_of_up hu]
  have hleft := moved_then_leaveUp (moved_setPort s p { s.port p with signal := false }) .down
  exact (moved_then_runt_none hleft hx).settle

/-- Settles O9: the port's state decides what its signal does; outside UP nothing but its own record and the notices
change. -/
theorem signalsMoveThePort : Obligations.SignalsMoveThePort := by
  refine ⟨fun p s hr => ⟨fun hl hrx => ?_, fun hl => ?_⟩, fun p s hr => ⟨fun hl => ?_, fun hl => ?_, fun e hl => ?_⟩⟩
  · have hset := moved_setPort s p { s.port p with signal := true }
    have hrefs : rxRefs { s.port p with signal := true } = [] := by
      unfold rxRefs
      dsimp only
      split
      · next b l hx => exact absurd hx (hrx _ _)
      · rfl
    rw [running_signalOn hr, signalOn_of_down hl]
    refine ⟨fun hs => ?_, fun hs => ?_⟩
    · have ht := moved_then_enterTraining hset hs
      rw [hrefs] at ht
      rw [moved_nil ht]
      rfl
    · have ht := moved_then_enterTraining_at hset hs
      rw [hrefs] at ht
      rw [moved_nil ht]
  · rw [running_signalOn hr, signalOn_of_ne_down hl]
  · rw [running_signalOff hr]
    unfold State.signalOff
    obtain hl | hl := hl
    · rw [hl]
    · rw [hl]
  · rw [running_signalOff hr]
    unfold PortRec.isTraining at hl
    cases hlink : (s.port p).link with
    | training n =>
      unfold State.signalOff
      rw [hlink]
      dsimp only
      rw [State.port_setPort_same]
      have hset := moved_then_setPort (moved_setPort s p { s.port p with signal := false })
        { s.port p with signal := false, link := .down }
      rw [moved_nil hset]
      rfl
    | _ => rw [hlink] at hl; cases hl
  · rw [running_signalOff hr]
    refine ⟨fun b l hx => ⟨_, rfl, ?_⟩, fun hx => ?_⟩
    · exact released_signalOff_quarantine hl hx
    · rw [released_nil (released_signalOff_quarantine_none hl hx)]
      rfl

/-- Settles O10: departure from UP, and the RUNT of a frame being received. -/
theorem signalLossTakesUpDown : Obligations.SignalLossTakesUpDown := by
  intro p s hr hu
  rw [running_signalOff hr]
  refine ⟨fun b l hx => ⟨_, rfl, ?_⟩, fun hx => ⟨_, rfl, released_signalOff_up_none hu hx⟩⟩
  have h := released_signalOff_up hu hx
  cases b with
  | none => exact h
  | some b => exact h

end Sys2Proof.PortMoves
end

section
/-! The symbols a port receives, up to the end of a frame, and the timers of the ports, the pool and the queues (06,
07). -/

namespace Sys2Proof.Receptions
open Sys2Proof.Machine Sys2Proof.Happenings Sys2Proof.Frames Sys2Proof.Course Sys2Proof.PortMoves

/-! ### What the symbol commands are -/

theorem setPort_setPort (s : State) (p : Port) (x y : PortRec) : (s.setPort p x).setPort p y = s.setPort p y :=
  moved_nil (moved_then_setPort (moved_setPort s p x) y)

theorem setPort_self (s : State) (p : Port) : s.setPort p (s.port p) = s := (moved_nil (Moved.refl s p)).symm

section
variable {s : State} {p : Port}

theorem receive_training {n : Nat} (hr : s.running = true) (hl : (s.port p).link = .training n) (sym : Symbol) :
    s.receive p sym = s.receiveTraining p n sym := by
  unfold State.receive
  rw [if_pos hr, hl]

theorem receive_silent (hl : (s.port p).link = .disabled ∨ (s.port p).link = .down) (sym : Symbol) :
    s.receive p sym = s := by
  unfold State.receive
  split
  · obtain hl | hl := hl
    · rw [hl]
    · rw [hl]
  · rfl

theorem receive_invalid {run : Nat} {held : Option Instant} (hr : s.running = true)
    (hl : (s.port p).link = .up run held) : s.receive p .invalid = (s.delimit p .invalid).countInvalid p := by
  unfold State.receive
  rw [if_pos hr, hl]
  rfl

theorem receive_hold {run : Nat} {held : Option Instant} (hr : s.running = true)
    (hl : (s.port p).link = .up run held) : s.receive p .hold = s.setPort p { s.port p with
      link := .up 0 (some (s.localTime + BitVec.ofNat 32 ((s.port p).cfg.holdLimit * 100))) } := by
  unfold State.receive
  rw [if_pos hr, hl]
  rfl

theorem receive_resume {run : Nat} {held : Option Instant} (hr : s.running = true)
    (hl : (s.port p).link = .up run held) : s.receive p .resume = s.setPort p { s.port p with link := .up 0 none } := by
  unfold State.receive
  rw [if_pos hr, hl]
  rfl

theorem not_up_of_quarantine (hq : (s.port p).isQuarantine = true) : (s.port p).isUp = false := by
  obtain ⟨e, hl⟩ := isQuarantine_link hq
  unfold PortRec.isUp
  rw [hl]

theorem lockHeld_of_not_up {x : PortRec} (h : x.isUp = false) : lockHeld x = x := by
  unfold lockHeld
  unfold PortRec.isUp at h
  cases hl : x.link with
  | up run held => rw [hl] at h; cases h
  | _ => dsimp only; rw [← hl]

@[simp] theorem lockHeld_rx (x : PortRec) : (lockHeld x).rx = x.rx := rfl

/-- A symbol that is neither invalid nor HOLD nor RESUME, where frames are received. -/
theorem receive_delimits (hr : s.running = true) (hp : PortRec.receives (s.port p)) {sym : Symbol}
    (h1 : sym ≠ .invalid) (h2 : sym ≠ .hold) (h3 : sym ≠ .resume) :
    s.receive p sym = (s.setPort p (lockHeld (s.port p))).delimit p sym := by
  obtain hu | hq := hp
  · exact receive_up hr hu h1 h2 h3
  · rw [lockHeld_of_not_up (not_up_of_quarantine hq), setPort_self]
    exact receive_quarantine hr hq

end

/-! ### Training, HOLD and RESUME (R119, R121, R137) -/

theorem symbolValid_iff {sym : Symbol} : symbolValid sym = true ↔ sym ≠ .invalid := by
  cases sym <;> simp [symbolValid]

theorem receiveTraining_valid {s : State} {p : Port} {n : Nat} {sym : Symbol} (hv : sym ≠ .invalid) (hn : n + 1 < 64) :
    s.receiveTraining p n sym = s.setPort p { s.port p with link := .training (n + 1) } := by
  unfold State.receiveTraining
  rw [if_pos (symbolValid_iff.2 hv), if_neg (by simp only [Config.trainingLength]; omega)]

theorem receiveTraining_last {s : State} {p : Port} {n : Nat} {sym : Symbol} (hv : sym ≠ .invalid) (hn : 64 ≤ n + 1) :
    s.receiveTraining p n sym = s.enterUp p := by
  unfold State.receiveTraining
  rw [if_pos (symbolValid_iff.2 hv), if_pos (by simp only [Config.trainingLength]; omega)]

/-- Settles O11: the three cases of a symbol in TRAINING. -/
theorem trainingCountsValidSymbols : Obligations.TrainingCountsValidSymbols := by
  intro p code n s hr hl
  have hexec : exec (.trainingSymbol p code) s = .next (s.receive p (decodeSymbol code)) := rfl
  rw [hexec, receive_training hr hl]
  refine ⟨fun hv hn => by rw [receiveTraining_valid hv hn], fun hv hn => ?_, fun hv => ?_⟩
  · rw [receiveTraining_last hv hn]
    unfold State.enterUp
    cases hh : s.pool.hold with
    | normal => simp [State.raise, State.raiseAt, State.cellTime, portSubject]
    | holding e => simp [State.raise, State.raiseAt, State.cellTime, portSubject]
  · rw [hv]
    rfl

/-- Settles O13: HOLD, RESUME and the expiry, on either side of its instant. -/
theorem partnerHoldStartsAndEnds : Obligations.PartnerHoldStartsAndEnds := by
  intro p run held s hr hl
  have hhold : exec (.holdReceived p) s = .next (s.receive p .hold) := rfl
  have hresume : exec (.resumeReceived p) s = .next (s.receive p .resume) := rfl
  have hexpiry : exec (.holdExpiry p) s = .next (if s.running && s.holdExpiryDue p then
      s.setPort p { s.port p with link := clearHold (s.port p).link } else s) := rfl
  have hdue : ∀ e, held = some e → (s.holdExpiryDue p = true ↔ (s.localTime - e).toNat < 2 ^ 31) := by
    rintro e rfl
    unfold State.holdExpiryDue State.passed atOrBefore
    rw [hl]
    simp
  rw [hhold, hresume, hexpiry, receive_hold hr hl, receive_resume hr hl, hr, Bool.true_and]
  refine ⟨rfl, rfl, fun e he ht => ?_, fun e he ht => ?_, fun he => ?_⟩
  · rw [if_pos ((hdue e he).2 ht), hl]
    rfl
  · rw [if_neg (fun h => absurd ((hdue e he).1 h) (by omega))]
  · have hnot : s.holdExpiryDue p = false := by
      unfold State.holdExpiryDue
      rw [hl, he]
    rw [hnot]
    rfl

/-- Settles O14: each state's reading of a symbol does not ask which row brought it. -/
theorem symbolsFollowThePortState : Obligations.SymbolsFollowThePortState := by
  intro p s hr
  have hexec : ∀ c ∈ [Instr.sofReceived p, .frameEnd p, .invalidSymbol p, .holdReceived p, .resumeReceived p],
      ∃ sym, exec c s = .next (s.receive p sym) ∧ (sym = .invalid → c = .invalidSymbol p) := by
    intro c hc
    simp only [List.mem_cons, List.not_mem_nil, or_false] at hc
    obtain rfl | rfl | rfl | rfl | rfl := hc
    · exact ⟨.sof, rfl, nofun⟩
    · exact ⟨.eof, rfl, nofun⟩
    · exact ⟨.invalid, rfl, fun _ => rfl⟩
    · exact ⟨.hold, rfl, nofun⟩
    · exact ⟨.resume, rfl, nofun⟩
  have hdata : ∀ d, exec (.dataByteReceived p d) s = .next (s.receive p (.data d)) := fun _ => rfl
  refine ⟨fun hl c hc => ?_, fun n hl hn => ⟨fun c hc => ?_, fun d => ?_, ?_⟩, fun e hl => ?_⟩
  · obtain ⟨sym, he, -⟩ := hexec c hc
    refine ⟨by rw [he, receive_silent hl], fun d => by rw [hdata, receive_silent hl], fun x => ?_, fun x => ?_⟩
    · exact congrArg _ (receive_silent hl x)
    · exact congrArg _ (receive_silent hl (decodeSymbol x))
  · simp only [List.mem_cons, List.not_mem_nil, or_false] at hc
    have hvalid : ∀ sym, sym ≠ .invalid → s.receive p sym = s.setPort p { s.port p with link := .training (n + 1) } :=
      fun sym hv => by rw [receive_training hr hl, receiveTraining_valid hv hn]
    obtain rfl | rfl | rfl | rfl := hc
    · exact congrArg _ (hvalid .sof nofun)
    · exact congrArg _ (hvalid .eof nofun)
    · exact congrArg _ (hvalid .hold nofun)
    · exact congrArg _ (hvalid .resume nofun)
  · rw [hdata, receive_training hr hl, receiveTraining_valid (sym := .data d) nofun hn]
  · exact congrArg _ (receive_training hr hl .invalid)
  · have hq : (s.port p).isQuarantine = true := by unfold PortRec.isQuarantine; rw [hl]
    have hnone : ∀ sym, sym = .hold ∨ sym = .resume → s.receive p sym = s := by
      intro sym hs
      rw [receive_quarantine hr hq]
      unfold State.delimit
      obtain rfl | rfl := hs
      · cases (s.port p).rx <;> rfl
      · cases (s.port p).rx <;> rfl
    exact ⟨congrArg _ (hnone .hold (.inl rfl)), congrArg _ (hnone .resume (.inr rfl))⟩

/-! ### The beginning and the bytes of a frame (R98, R125) -/

theorem beginFrame_up {s t : State} {p : Port} {b : BufId} (hu : (s.port p).isUp = true)
    (ha : s.alloc Config.ingressNeed = some (b, t)) :
    s.beginFrame p = t.setPort p { t.port p with rx := .frame (some b) [] } := by
  unfold State.beginFrame
  rw [if_pos hu, ha]

theorem beginFrame_empty {s : State} {p : Port} (h : (s.port p).isUp = false ∨ s.freeCount < 5) :
    s.beginFrame p = s.setPort p { s.port p with rx := .frame none [] } := by
  unfold State.beginFrame
  split
  · next hu =>
    obtain h | h := h
    · exact absurd (hu.symm.trans h) Bool.noConfusion
    · have hn : s.alloc Config.ingressNeed = none := (alloc_none (by decide)).2 h
      rw [hn]
  · rfl

/-- A byte that makes no error is counted, and written into the buffer where there is one. -/
theorem rxByte_ok {s : State} {p : Port} {b : Option BufId} {l : List Byte} {d : Byte}
    (h : errorAt l (.data d) = none) :
    s.rxByte p b l d = match b with
      | some c => (s.setPort p { s.port p with rx := .frame b (l ++ [d]) }).writeByte c d
      | none => s.setPort p { s.port p with rx := .frame b (l ++ [d]) } := by
  unfold State.rxByte
  rw [byteError_eq, h] <;> cases b <;> rfl

theorem inside_of_frame {x : PortRec} {b : Option BufId} {l : List Byte} (h : x.rx = .frame b l) :
    x.rx.inside = some (b, l) := by
  rw [h]
  rfl

/-- Settles O15: an allocation at SOF, and a byte in each state of the receiver. -/
theorem sofAndBytesAreReceived : Obligations.SofAndBytesAreReceived := by
  refine ⟨fun p s hr hx => ?_, fun p d s hr hp => ?_⟩
  · have hsof : exec (.sofReceived p) s = .next (s.receive p .sof) := rfl
    have hport : (s.setPort p (lockHeld (s.port p))).port p = lockHeld (s.port p) := State.port_setPort_same _ _ _
    have hbegin : PortRec.receives (s.port p) →
        s.receive p .sof = (s.setPort p (lockHeld (s.port p))).beginFrame p := by
      intro hp
      rw [receive_delimits hr hp (sym := .sof) nofun nofun nofun, delimit_between (by rw [hport]; exact hx)]
      rfl
    rw [hsof]
    refine ⟨fun hu hf => ?_, fun hu hf => ?_, fun hq => ?_⟩
    · have hu' : ((s.setPort p (lockHeld (s.port p))).port p).isUp = true := by
        rw [hport, lockHeld_isUp]
        exact hu
      obtain ⟨b, t, ha⟩ := alloc_exists (s := s.setPort p (lockHeld (s.port p))) (n := Config.ingressNeed) (by decide) hf
      refine ⟨b, t, alloc_allocated (by decide) ha, ?_⟩
      rw [hbegin (.inl hu), beginFrame_up hu' ha]
    · have hf' : (s.setPort p (lockHeld (s.port p))).freeCount < 5 := hf
      rw [hbegin (.inl hu), beginFrame_empty (.inr hf'), hport, setPort_setPort]
    · have hu := not_up_of_quarantine hq
      rw [hbegin (.inr hq), lockHeld_of_not_up hu, setPort_self, beginFrame_empty (.inl hu)]
  · have hdata : exec (.dataByteReceived p d) s = .next (s.receive p (.data d)) := rfl
    have hport : (s.setPort p (lockHeld (s.port p))).port p = lockHeld (s.port p) := State.port_setPort_same _ _ _
    have hinside : ∀ b l, (s.port p).rx.inside = some (b, l) →
        s.receive p (.data d) = (s.setPort p (lockHeld (s.port p))).rxByte p b l d := by
      intro b l hx
      rw [receive_delimits hr hp (sym := .data d) nofun nofun nofun,
        delimit_inside (by rw [hport]; exact hx) (sym := .data d) nofun]
      rfl
    rw [hdata]
    refine ⟨fun b l hx he => ?_, fun l hx he => ?_, fun hx => ?_⟩
    · rw [hinside _ _ (inside_of_frame hx), rxByte_ok he, hport]
      dsimp only
      rw [setPort_setPort]
      rfl
    · rw [hinside _ _ hx, rxByte_ok he, hport]
      dsimp only
      rw [setPort_setPort]
    · rw [receive_delimits hr hp (sym := .data d) nofun nofun nofun, delimit_between (by rw [hport]; exact hx)]
      rfl

/-! ### Receive errors (R127, R128) and the loss of lock (R122) -/

/-- What a happening leaves of the port it moves does not depend on that port's record before. -/
theorem released_of_setPort {s t : State} {p : Port} {x y : PortRec} {bs : List BufId} {u : NoticeUnit}
    (h : Released (s.setPort p y) t p x bs u) : Released s t p x bs u := by
  have hresumed : (s.setPort p y).resumed t = s.resumed t := rfl
  refine ⟨h.rest, h.bufs, ?_, ?_, fun q hq => ?_⟩
  · rw [← hresumed]
    exact h.pool
  · rw [← hresumed]
    exact h.own
  · rw [← hresumed, h.others q hq, State.port_setPort_ne s y hq]

/-- A link state set after a happening, the port being UP before and after. -/
theorem released_then_relink {s t : State} {p : Port} {x : PortRec} {bs : List BufId} {u : NoticeUnit}
    (h : Released s t p x bs u) {l : LinkState} (hl : ({ x with link := l } : PortRec).isUp = x.isUp) :
    Released s (t.setPort p { t.port p with link := l }) p { x with link := l } bs u := by
  refine ⟨?_, h.bufs, h.pool, ?_, fun q hq => ?_⟩
  · have hr := h.rest
    generalize hw : t.setPort p { t.port p with link := l } = w
    have hset := setPort_sameButLinks t p { t.port p with link := l }
    rw [hw] at hset
    have hn : w.notices = u := by rw [← hw, hr]; rfl
    rw [hset, hr]
    dsimp only
    rw [hn]
  · rw [State.port_setPort_same, h.own, hl]
    rfl
  · rw [State.port_setPort_ne _ _ hq]
    exact h.others q hq

theorem moved_loseLock {s : State} {p : Port} (hs : (s.port p).score < (s.port p).cfg.quarantineThreshold) :
    Moved s (s.loseLock p) p { training (flushed (s.port p)) with ctl := [] }
      (flushedRefs (s.port p) ++ rxRefs (s.port p))
      (pushNotice (noticesAfter s.notices (s.port p).queue) .portDown s.cellTime (byteOf p) 2) := by
  have hleft := moved_leaveUp s p (.training 0)
  exact moved_then_enterTraining hleft hs

theorem countInvalid_below {s : State} {p : Port} {run : Nat} {held : Option Instant}
    (hl : (s.port p).link = .up run held) (hn : run + 1 < 4) :
    s.countInvalid p = s.setPort p { s.port p with link := .up (run + 1) held } := by
  unfold State.countInvalid
  rw [hl]
  dsimp only
  rw [if_neg (by simp only [Config.lockLimit]; omega)]

theorem countInvalid_fourth {s : State} {p : Port} {run : Nat} {held : Option Instant}
    (hl : (s.port p).link = .up run held) (hn : 4 ≤ run + 1) : s.countInvalid p = (s.loseLock p).settle s := by
  unfold State.countInvalid
  rw [hl]
  dsimp only
  rw [if_pos (by simp only [Config.lockLimit]; omega)]

theorem countInvalid_not_up {s : State} {p : Port} (h : (s.port p).isUp = false) : s.countInvalid p = s := by
  unfold State.countInvalid
  unfold PortRec.isUp at h
  cases hl : (s.port p).link with
  | up run held => rw [hl] at h; cases h
  | _ => rfl

/-- A port that a receive error leaves in UP kept its link state and its queue, and its score is below the threshold. -/
theorem scored_up {x : PortRec} {u : NoticeUnit} {p : Port} {w : Nat} {now time : Instant}
    (h : (scored x u p w now time).1.isUp = true) :
    (scored x u p w now time).1.link = x.link
      ∧ (scored x u p w now time).1.score < (scored x u p w now time).1.cfg.quarantineThreshold
      ∧ (scored x u p w now time).2.2 = [] := by
  unfold scored at h ⊢
  dsimp only at h ⊢
  split at h
  · cases h
  · next hs =>
    rw [if_neg hs]
    exact ⟨rfl, Nat.lt_of_not_le hs, rfl⟩

/-- The fourth invalid symbol, after the receive error it made: both give buffers back, and the pool decides as it would
for all of them at once (log 14). -/
theorem released_then_loseLock {s t : State} {p : Port} {x : PortRec} {bs : List BufId} {u : NoticeUnit}
    (h : Released s t p x bs u) (hs : x.score < x.cfg.quarantineThreshold) (hx : rxRefs x = []) :
    Released s ((t.loseLock p).settle t) p { training (flushed x) with ctl := [] } (bs ++ flushedRefs x)
      (pushNotice (noticesAfter u x.queue) .portDown s.cellTime (byteOf p) 2) := by
  obtain ⟨c, hport⟩ : ∃ c, t.port p = { x with ctl := c } := ⟨_, h.own⟩
  have hn : t.notices = u := by rw [h.rest]
  have hc : t.cellTime = s.cellTime := by unfold State.cellTime; rw [h.rest]
  have hl := moved_loseLock (s := t) (p := p) (by rw [hport]; exact hs)
  have hrefs : rxRefs (t.port p) = [] := by rw [hport]; exact hx
  have hflushed : flushedRefs (t.port p) = flushedRefs x := by rw [hport]; rfl
  rw [hrefs, hflushed, List.append_nil, hn, hc, hport] at hl
  exact h.trans hl.settle rfl

/-- Settles O12: the receive error of an invalid symbol first, then its place in the run. -/
theorem invalidSymbolsLoseLock : Obligations.InvalidSymbolsLoseLock := by
  have hexec : ∀ p s, exec (.invalidSymbol p) s = .next (s.receive p .invalid) := fun _ _ => rfl
  refine ⟨fun p run held s hr hl hx hs => ?_, fun p run held b l s hr hl hx => ?_, fun p s hr hq => ?_⟩
  · have hbetween : s.delimit p .invalid = s := delimit_between hx .invalid
    rw [hexec, receive_invalid hr hl, hbetween]
    refine ⟨fun hn => by rw [countInvalid_below hl hn], fun hn => ⟨_, rfl, ?_⟩⟩
    rw [countInvalid_fourth hl hn]
    have h := (moved_loseLock hs).settle
    rwa [rxRefs_of_none hx, List.append_nil] at h
  · have hu : (s.port p).isUp = true := by unfold PortRec.isUp; rw [hl]
    have hinside : s.delimit p .invalid = s.rxError p b .code .ignoring := delimit_inside hx nofun
    have herror := rxError_up hu b .code .ignoring
    have hrx : (scored (errorCounted (s.port p) b .code .ignoring) s.notices p (errorWeight .code) s.localTime
        s.cellTime).1.rx = .ignoring := scored_rx _ _ _ _ _ _
    rw [hexec, receive_invalid hr hl, hinside]
    dsimp only at herror ⊢
    change Released s _ p (scored (errorCounted (s.port p) b .code .ignoring) s.notices p 1 s.localTime s.cellTime).1
      (b.toList ++ (scored (errorCounted (s.port p) b .code .ignoring) s.notices p 1 s.localTime s.cellTime).2.2)
      (scored (errorCounted (s.port p) b .code .ignoring) s.notices p 1 s.localTime s.cellTime).2.1 at herror
    generalize s.rxError p b .code .ignoring = t at herror
    have hkeep := fun h => scored_up (x := errorCounted (s.port p) b .code .ignoring) (u := s.notices) (p := p) (w := 1)
      (now := s.localTime) (time := s.cellTime) h
    change (scored (errorCounted (s.port p) b .code .ignoring) s.notices p 1 s.localTime s.cellTime).1.rx = _ at hrx
    generalize scored (errorCounted (s.port p) b .code .ignoring) s.notices p 1 s.localTime s.cellTime = r
      at herror hkeep hrx
    have hlink : r.1.isUp = true → (t.port p).link = .up run held := fun h => by
      rw [herror.own]
      exact (hkeep h).1.trans hl
    refine ⟨_, rfl, fun h => ?_, fun h hn => ?_, fun h hn => ?_⟩
    · rw [countInvalid_not_up (by rw [herror.own]; exact h)]
      exact herror
    · rw [countInvalid_below (hlink h) hn]
      exact released_then_relink herror h.symm
    · rw [countInvalid_fourth (hlink h) hn]
      obtain ⟨-, hbelow, hnothing⟩ := hkeep h
      rw [hnothing, List.append_nil] at herror
      exact released_then_loseLock herror hbelow (rxRefs_of_none (by rw [hrx]; rfl))
  · rw [hexec, receive_quarantine hr hq]
    refine ⟨fun b l hx => ⟨_, rfl, ?_⟩, fun hx => ?_⟩
    · have hinside : s.delimit p .invalid = s.rxError p b .code .ignoring := delimit_inside hx nofun
      rw [hinside]
      exact rxError_quarantine hq b .code .ignoring
    · exact congrArg _ (delimit_between hx .invalid)

theorem delimits_of_error {l : List Byte} {sym : Symbol} {e : RxError} (h : errorAt l sym = some e) :
    sym ≠ .hold ∧ sym ≠ .resume := by
  constructor
  · rintro rfl
    cases h
  · rintro rfl
    cases h

/-- A receive error in UP, at a symbol that is itself valid. -/
theorem released_error_up {s : State} {p : Port} (hu : (s.port p).isUp = true) (b : Option BufId) (e : RxError)
    (rx : Reception) :
    let r := scored (errorCounted (lockHeld (s.port p)) b e rx) s.notices p (errorWeight e) s.localTime s.cellTime
    Released s ((s.setPort p (lockHeld (s.port p))).rxError p b e rx) p r.1 (b.toList ++ r.2.2) r.2.1 := by
  have hport : (s.setPort p (lockHeld (s.port p))).port p = lockHeld (s.port p) := State.port_setPort_same _ _ _
  have h := rxError_up (s := s.setPort p (lockHeld (s.port p))) (p := p) (by rw [hport, lockHeld_isUp]; exact hu) b e rx
  rw [hport] at h
  exact released_of_setPort h

theorem sofInside {s : State} {p : Port} {b : Option BufId} {l : List Byte} (hx : (s.port p).rx.inside = some (b, l)) :
    s.delimit p .sof = (s.rxError p b .runt .idle).beginFrame p := delimit_inside hx nofun

/-- Settles O16: the error first; an SOF's frame begins in the state the error has left. -/
theorem receiveErrorsEndAFrame : Obligations.ReceiveErrorsEndAFrame := by
  have hexec : ∀ p sym s, exec (.receiveError p sym) s = .next (s.receive p sym) := fun _ _ _ => rfl
  refine ⟨fun p sym b l e s hr hu hx hsof hinv he => ?_, fun p sym b l e s hr hq hx hsof he => ?_,
    fun p b l s hr hu hx => ?_, fun p b l s hr hq hx => ?_⟩
  · obtain ⟨hhold, hresume⟩ := delimits_of_error he
    have hport : (s.setPort p (lockHeld (s.port p))).port p = lockHeld (s.port p) := State.port_setPort_same _ _ _
    rw [hexec, receive_up hr hu hinv hhold hresume, delimit_error (by rw [hport]; exact hx) hsof he]
    refine ⟨_, rfl, ?_⟩
    have h := released_error_up hu b e (afterError sym)
    cases e <;> exact h
  · rw [hexec, receive_quarantine hr hq, delimit_error hx hsof he]
    exact ⟨_, rfl, rxError_quarantine hq b e _⟩
  · have hport : (s.setPort p (lockHeld (s.port p))).port p = lockHeld (s.port p) := State.port_setPort_same _ _ _
    rw [hexec, receive_up hr hu (sym := .sof) nofun nofun nofun, sofInside (by rw [hport]; exact hx)]
    refine ⟨_, released_error_up hu b .runt .idle, fun hup hf => ?_, fun h => ?_⟩
    · obtain ⟨c, u, ha⟩ := alloc_exists (n := Config.ingressNeed) (by decide) hf
      exact ⟨c, u, alloc_allocated (by decide) ha, by rw [beginFrame_up hup ha]⟩
    · rw [beginFrame_empty h]
  · rw [hexec, receive_quarantine hr hq, sofInside hx]
    have h := rxError_quarantine hq b .runt .idle
    refine ⟨_, h, ?_⟩
    rw [beginFrame_empty (.inl (by rw [h.own]; exact not_up_of_quarantine hq))]

end Sys2Proof.Receptions
end

section
/-! The timers of the ports and of the pool, selection, transmission and the order of a queue (R98 to R111, R131, R132,
R135). -/

namespace Sys2Proof.PortTimers
open Sys2Proof.Machine Sys2Proof.Happenings Sys2Proof.Frames Sys2Proof.Course Sys2Proof.PortMoves Sys2Proof.Receptions

/-! ### Leaks and the end of a quarantine (R131, R132, R135) -/

theorem warnedNotices_quiet {u : NoticeUnit} {p : Port} {x y : PortRec} {time : Instant}
    (h : x.warned = true ∨ y.warned = false) : warnedNotices u p x y time = u := by
  unfold warnedNotices
  obtain h | h := h
  · rw [h]
    rfl
  · rw [h, Bool.and_false]
    rfl

/-- A warned test that raises no notice sets the flag alone (R132). -/
theorem warnedTest_quiet {s : State} {p : Port} {x : PortRec} {w : Bool} (hw : warnedAfter x = w)
    (h : x.warned = true ∨ w = false) : (s.setPort p x).warnedTest p = s.setPort p { x with warned := w } := by
  have htest := moved_nil (moved_then_warnedTest (moved_setPort s p x))
  rw [hw, warnedNotices_quiet (x := x) (y := { x with warned := w }) h] at htest
  exact htest

/-- One leak step of a port whose warned test raises no notice. -/
theorem leakStep_eq {s : State} {p : Port} {d : Instant} (hn : (s.port p).nextLeak = some d) {w : Bool}
    (hw : warnedAfter { s.port p with score := (s.port p).score - 1 } = w) (h : (s.port p).warned = true ∨ w = false) :
    s.leakStep p = s.setPort p { s.port p with
      score := (s.port p).score - 1
      nextLeak := if (s.port p).score - 1 = 0 then none
        else some (d + BitVec.ofNat 32 ((s.port p).cfg.leakInterval * 1000))
      warned := w } := by
  unfold State.leakStep
  dsimp only
  rw [hn]
  exact warnedTest_quiet hw h

theorem not_warned_after {x : PortRec} (hw : x.warned = false) (hs : x.score < x.cfg.warnThreshold) :
    warnedAfter x = false := by
  unfold warnedAfter
  rw [hw, if_neg Bool.false_ne_true]
  exact decide_eq_false (Nat.not_le.2 hs)

/-- Settles O29: a leak is a warned test away from its record; a quarantine ends by the entry to TRAINING. -/
theorem leaksAndQuarantineEnds : Obligations.LeaksAndQuarantineEnds := by
  refine ⟨fun p d s hr hn hp => ?_, fun p d s hr hl hp hq => ?_⟩
  · have hdue : s.leakDue p = true := by
      unfold State.leakDue
      rw [hn]
      exact hp
    have hexec : exec (.leak p) s = .next (s.leakStep p) := by
      show execLeak p s = _
      unfold execLeak
      rw [hr, hdue]
      rfl
    rw [hexec]
    refine ⟨fun hw => ?_, fun hw hs => ?_⟩
    · refine congrArg _ (leakStep_eq hn ?_ (.inl hw))
      unfold warnedAfter
      dsimp only
      rw [if_pos hw]
    · rw [leakStep_eq hn (not_warned_after (x := { s.port p with score := (s.port p).score - 1 }) hw hs) (.inr rfl)]
      exact congrArg (fun w => Host.Outcome.next (s.setPort p { s.port p with
        score := (s.port p).score - 1
        nextLeak := if (s.port p).score - 1 = 0 then none
          else some (d + BitVec.ofNat 32 ((s.port p).cfg.leakInterval * 1000))
        warned := w })) hw.symm
  · have hdue : s.quarantineDue p = true := by
      unfold State.quarantineDue
      rw [hl]
      exact hp
    have hexec : exec (.quarantineEnd p) s = .next ((s.endQuarantine p).settle s) := by
      show execQuarantineEnd p s = _
      unfold execQuarantineEnd
      rw [hr, hdue]
      rfl
    exact ⟨_, hexec, (moved_endQuarantine hq).settle⟩

/-! ### The pool (R98 to R103) -/

/-- Settles O30: the repeat hands over HOLD; an allocation fails below its need and takes one buffer else. -/
theorem holdRepeatsAndAllocations : Obligations.HoldRepeatsAndAllocations := by
  refine ⟨fun d s hr hh hp => ?_, fun n s hn => ⟨(alloc_none hn).symm, fun b t ha => ⟨alloc_allocated hn ha, ?_⟩⟩⟩
  · have hexec : exec .holdRepeat s = .next
        (({ s with pool := { s.pool with hold := .holding (d + 500) } } : State).sendToUp .hold) := by
      show execHoldRepeat s = _
      unfold execHoldRepeat
      rw [hh]
      dsimp only
      exact congrArg _ (if_pos (by rw [hr, hp]; rfl))
    refine ⟨_, hexec, rfl, fun p => ?_⟩
    rw [State.port_sendToUp]
    exact rfl
  · obtain ⟨-, hfree, rfl⟩ := alloc_some ha
    rw [decideAtAlloc_freeCount]
    exact takeBuffer_freeCount s b hfree

/-! ### Selection and transmission (R109 to R111) -/

/-- A selection at a port whose conditions hold (R110, R192). -/
theorem moved_select {s : State} {p : Port} (hc : (s.port p).canSelect = true) :
    let o := selectFrom (s.port p).cfg.ageLimit s.localTime (s.port p).queue
    Moved s (s.select p) p
      { s.port p with
        queue := o.2.2
        tx := o.2.1.map fun e => { buf := e.buf, left := (byteAt (s.buf e.buf).bytes 4).toNat + 10 }
        counters := { (s.port p).counters with
          aged := (s.port p).counters.aged + BitVec.ofNat 32 o.1.length } }
      (o.1.map (·.buf)) (noticesAfter s.notices (o.1 ++ o.2.1.toList)) := by
  unfold State.select
  rw [if_pos hc]
  exact moved_then_noticeLeft (moved_then_dropRefs (moved_setPort s p _) _) _

theorem canSelect_iff {x : PortRec} :
    x.canSelect = true ↔ x.isUp = true ∧ x.isHeld = false ∧ x.tx = none ∧ x.queue ≠ [] := by
  unfold PortRec.canSelect
  simp only [Bool.and_eq_true, Bool.not_eq_true', Option.isNone_iff_eq_none, List.isEmpty_eq_false_iff, and_assoc, ne_eq]

theorem entryAged_iff {limit : Nat} {now : Instant} {e : QueueEntry} :
    entryAged limit now e = true ↔ limit ≠ 0 ∧ limit * 1000 < (now - e.time).toNat := by
  unfold entryAged
  rw [Bool.and_eq_true, bne_iff_ne, decide_eq_true_eq]

/-- What a selection takes from the front of a queue: entries too old, then the one to send (R110). -/
theorem selectFrom_facts (limit : Nat) (now : Instant) (q : List QueueEntry) :
    let o := selectFrom limit now q
    q = o.1 ++ o.2.1.toList ++ o.2.2
      ∧ (∀ e ∈ o.1, limit ≠ 0 ∧ limit * 1000 < (now - e.time).toNat)
      ∧ (∀ e, o.2.1 = some e → ¬ (limit ≠ 0 ∧ limit * 1000 < (now - e.time).toNat))
      ∧ (o.2.1 = none → o.2.2 = []) := by
  obtain ⟨haged, hsent, hrest⟩ := selectFrom_ages limit now q
  refine ⟨(selectFrom_split limit now q).symm, fun e he => entryAged_iff.1 (haged e he), fun e he hold => ?_, hrest⟩
  have := hsent e he
  rw [entryAged_iff.2 hold] at this
  cases this

/-- The end of a transmission with nothing to select (R111). -/
theorem moved_endTransmission_idle {s : State} {p : Port} {b : BufId} (t : Tx) (ht : t.buf = b)
    (h : (s.port p).isUp = false ∨ (s.port p).isHeld = true ∨ (s.port p).queue = []) :
    Moved s (s.endTransmission p t) p
      { s.port p with
        tx := none, counters := { (s.port p).counters with txFrames := (s.port p).counters.txFrames + 1 } } [b]
      s.notices := by
  have hmoved := moved_then_dropRef? (moved_setPort s p { s.port p with
    tx := none, counters := { (s.port p).counters with txFrames := (s.port p).counters.txFrames + 1 } }) (some b)
  unfold State.endTransmission
  rw [ht]
  rwa [select_of_not_canSelect]
  refine Bool.eq_false_iff.2 fun hc => ?_
  obtain ⟨hup, hheld, -, hqueue⟩ := canSelect_iff.1 hc
  rw [dropRef_port, State.port_setPort_same] at hup hheld hqueue
  obtain h | h | h := h
  · exact absurd (hup.symm.trans h) Bool.noConfusion
  · exact absurd (h.symm.trans hheld) Bool.noConfusion
  · exact hqueue h

/-- The end of a transmission and the selection that follows it at once (R111, log 13). -/
theorem moved_endTransmission_next {s : State} {p : Port} {b : BufId} (t : Tx) (ht : t.buf = b)
    (hup : (s.port p).isUp = true) (hheld : (s.port p).isHeld = false) (hqueue : (s.port p).queue ≠ [])
    (hb : ∀ e ∈ (s.port p).queue, e.buf ≠ b) :
    let o := selectFrom (s.port p).cfg.ageLimit s.localTime (s.port p).queue
    Moved s (s.endTransmission p t) p
      { s.port p with
        queue := o.2.2
        tx := o.2.1.map fun e => { buf := e.buf, left := (byteAt (s.buf e.buf).bytes 4).toNat + 10 }
        counters := { (s.port p).counters with
          txFrames := (s.port p).counters.txFrames + 1
          aged := (s.port p).counters.aged + BitVec.ofNat 32 o.1.length } }
      (b :: o.1.map (·.buf)) (noticesAfter s.notices (o.1 ++ o.2.1.toList)) := by
  have hmoved := moved_then_dropRef? (moved_setPort s p { s.port p with
    tx := none, counters := { (s.port p).counters with txFrames := (s.port p).counters.txFrames + 1 } }) (some b)
  unfold State.endTransmission
  rw [ht]
  dsimp only
  change Moved s ((s.setPort p _).dropRef b) p _ [b] _ at hmoved
  generalize (s.setPort p { s.port p with
    tx := none, counters := { (s.port p).counters with txFrames := (s.port p).counters.txFrames + 1 } }).dropRef b = v
    at hmoved
  have hselect := moved_select (s := v) (p := p)
    (by rw [hmoved.own]; exact canSelect_iff.2 ⟨hup, hheld, rfl, hqueue⟩)
  rw [hmoved.own, hmoved.notices, moved_localTime hmoved] at hselect
  dsimp only at hselect ⊢
  have hsplit := selectFrom_split (s.port p).cfg.ageLimit s.localTime (s.port p).queue
  generalize selectFrom (s.port p).cfg.ageLimit s.localTime (s.port p).queue = o at hselect hsplit ⊢
  have htx : o.2.1.map (fun e => ({ buf := e.buf, left := (byteAt (v.buf e.buf).bytes 4).toNat + 10 } : Tx))
      = o.2.1.map fun e => { buf := e.buf, left := (byteAt (s.buf e.buf).bytes 4).toNat + 10 } := by
    refine Option.map_congr fun e he => ?_
    have hmem : e ∈ (s.port p).queue := by
      rw [← hsplit, he]
      simp
    have hbuf : v.buf e.buf = s.buf e.buf := by
      rw [hmoved.bufs, List.count_eq_zero.2 (by simpa using hb e hmem), less_zero]
    rw [hbuf]
  rw [htx] at hselect
  exact hmoved.trans hselect

/-- Settles O31: a selection, and a transmission's end with the selection behind it. -/
theorem selectionsAgeThenSend : Obligations.SelectionsAgeThenSend := by
  refine ⟨fun p s hr hup hheld htx hqueue => ?_, fun p b s hr htx hb => ⟨fun h => ?_, fun hup hheld hqueue => ?_⟩⟩
  · have hexec : exec (.selection p) s = .next ((s.select p).settle s) := by
      show execSelection p s = _
      unfold execSelection
      rw [if_pos hr]
    obtain ⟨hsplit, haged, hsent, hrest⟩ := selectFrom_facts (s.port p).cfg.ageLimit s.localTime (s.port p).queue
    exact ⟨_, _, _, _, hexec, hsplit, haged, hsent, hrest,
      (moved_select (canSelect_iff.2 ⟨hup, hheld, htx, hqueue⟩)).settle⟩
  all_goals
    have hexec : exec (.transmissionEnd p) s
        = .next ((s.endTransmission p { buf := b, left := 0 }).settle s) := by
      show execTransmissionEnd p s = _
      unfold execTransmissionEnd
      rw [htx, hr]
      rfl
  · exact ⟨_, hexec, (moved_endTransmission_idle _ rfl h).settle⟩
  · obtain ⟨hsplit, haged, hsent, hrest⟩ := selectFrom_facts (s.port p).cfg.ageLimit s.localTime (s.port p).queue
    exact ⟨_, _, _, _, hexec, hsplit, haged, hsent, hrest,
      (moved_endTransmission_next _ rfl hup hheld hqueue hb).settle⟩

/-! ### The order of a queue (R107, R108) -/

/-- Settles O32, by induction on the queue: behind a head of a level at least as high, else in front of it all. -/
theorem entriesJoinBehindTheirLevel : Obligations.EntriesJoinBehindTheirLevel := by
  intro e q
  induction q with
  | nil => exact fun _ => rfl
  | cons x xs ih =>
    intro hsorted
    obtain ⟨hhead, htail⟩ := List.pairwise_cons.1 hsorted
    unfold insertEntry
    by_cases hx : e.prio ≤ x.prio
    · have hlow : ¬ x.prio < e.prio := BitVec.not_lt.2 hx
      rw [if_pos hx, ih htail]
      simp [hx, hlow]
    · have hlow : x.prio < e.prio := BitVec.not_le.1 hx
      have hall : ∀ y ∈ x :: xs, y.prio < e.prio := by
        intro y hy
        obtain rfl | hy := List.mem_cons.1 hy
        · exact hlow
        · exact Nat.lt_of_le_of_lt (hhead y hy) hlow
      have hnone : (x :: xs).filter (fun y => decide (e.prio ≤ y.prio)) = [] :=
        List.filter_eq_nil_iff.2 fun y hy => by simpa using BitVec.not_le.2 (hall y hy)
      have hevery : (x :: xs).filter (fun y => decide (y.prio < e.prio)) = x :: xs :=
        List.filter_eq_self.2 fun y hy => decide_eq_true (hall y hy)
      rw [if_neg hx, hnone, hevery]
      rfl

end Sys2Proof.PortTimers
end

section
/-! A frame that ends good: dropped and counted, captured, or forwarded (03). -/

namespace Sys2Proof.FrameEnds
open Sys2Proof.Machine Sys2Proof.Happenings Sys2Proof.Frames Sys2Proof.Course Sys2Proof.PortMoves Sys2Proof.Receptions

/-! ### The lookup (R4 to R8) -/

theorem entryMatches_iff (e : RuleEntry) (p : Port) (h : Header) : entryMatches e p h = true ↔
    e.valid = true ∧ h.tag &&& e.matchMask = e.matchValue ∧ e.ingress.getLsbD p = true
      ∧ e.kinds.getLsbD (kindCode h.kind).toNat = true ∧ e.lo ≤ h.prio ∧ h.prio ≤ e.hi := by
  unfold entryMatches tagCondition kindCondition prioCondition
  simp only [Bool.and_eq_true, beq_iff_eq, decide_eq_true_eq, and_assoc]

/-- The first position at which a predicate holds. -/
theorem find?_finRange_eq_some {n : Nat} (f : Fin n → Bool) (i : Fin n) :
    (List.finRange n).find? f = some i ↔ f i = true ∧ ∀ j, j < i → f j = false := by
  rw [List.find?_eq_some_iff_getElem]
  refine and_congr_right fun _ => ⟨?_, fun h => ⟨i, by simp, by simp, fun j hj => ?_⟩⟩
  · rintro ⟨k, hk, rfl, hbelow⟩ j hj
    have := hbelow j.val (by simpa [Fin.lt_def] using hj)
    simpa using this
  · have := h ⟨j, hj.trans i.isLt⟩ hj
    simpa using this

/-- Settles O21: the search for the first matching position. -/
theorem lookupTakesTheLowestMatch : Obligations.LookupTakesTheLowestMatch := by
  intro k p h
  dsimp only
  simp only [← entryMatches_iff]
  have hhit : ∀ i, winningPos k p h = some i ↔ entryMatches (k.entries.get i) p h = true
      ∧ ∀ j, j < i → ¬ entryMatches (k.entries.get j) p h = true := by
    intro i
    simp only [Bool.not_eq_true]
    exact find?_finRange_eq_some _ i
  have hmiss : winningPos k p h = none ↔ ∀ i, ¬ entryMatches (k.entries.get i) p h = true :=
    List.find?_eq_none.trans ⟨fun hall i => hall i (List.mem_finRange i), fun hall i _ => hall i⟩
  unfold lookupIn
  refine ⟨fun i e => ?_, fun m => ?_⟩
  · cases hw : winningPos k p h with
    | some j =>
      simp only [Lookup.hit.injEq]
      rw [← hhit i, hw, Option.some.injEq]
      constructor
      · rintro ⟨rfl, rfl⟩
        exact ⟨rfl, rfl⟩
      · rintro ⟨rfl, rfl⟩
        exact ⟨rfl, rfl⟩
    | none =>
      refine iff_of_false nofun fun hi => ?_
      exact hmiss.1 hw i hi.2.1
  · cases hw : winningPos k p h with
    | some j => exact iff_of_false nofun fun hm => hm.2 j ((hhit j).1 hw).1
    | none =>
      simp only [Lookup.miss.injEq]
      exact ⟨fun hm => ⟨hm.symm, hmiss.1 hw⟩, fun hm => hm.1.symm⟩

/-! ### The end of a good frame (R125, R128) -/

theorem goodFrame_errorAt {l : List Byte} (h : goodFrame l) : errorAt l .eof = none := by
  obtain ⟨hlength, hcheck⟩ := h
  unfold errorAt
  rw [if_neg (by omega), if_neg (not_not.2 hcheck)]

theorem settle_congr {s u base : State} (h : base.freeCount = u.freeCount) : s.settle base = s.settle u := by
  unfold State.settle
  rw [h]

theorem rxEof_good {s : State} {p : Port} {b : Option BufId} {l : List Byte} (hg : goodFrame l) :
    s.rxEof p b l = s.goodEnd p b l := by
  unfold State.rxEof
  rw [eofError_eq, goodFrame_errorAt hg]

/-- A good end where nothing reaches the Classifier: the buffer, if there is one, is given back (R128). -/
theorem released_discard {s : State} {p : Port} {b : Option BufId} (l : List Byte)
    (h : (s.port p).isUp = false ∨ b = none) :
    Released s (s.goodEnd p b l) p
      { s.port p with
        rx := .idle, counters := countDiscard (s.port p).isQuarantine b.isSome (s.port p).counters } b.toList s.notices := by
  rw [goodEnd_discard h]
  exact (moved_then_dropRef? (moved_setPort s p _) b).settle

/-- EOF of a good frame in QUARANTINE, its buffer there or not. -/
theorem delimit_eof_quarantine {s : State} {p : Port} {b : Option BufId} {l : List Byte}
    (hq : (s.port p).isQuarantine = true) (hx : (s.port p).rx.inside = some (b, l)) (hg : goodFrame l) :
    s.delimit p .eof = s.goodEnd p b l := by
  unfold State.delimit
  cases hrx : (s.port p).rx with
  | idle => rw [hrx] at hx; cases hx
  | ignoring => rw [hrx] at hx; cases hx
  | frame o m =>
    rw [hrx] at hx
    cases hx
    exact rxEof_good hg
  | stripped m =>
    rw [hrx] at hx
    cases hx
    show s.rxEofStripped p l = _
    unfold State.rxEofStripped
    rw [eofError_eq, goodFrame_errorAt hg, not_up_of_quarantine hq]

/-- The frame that port `p` hands to the Classifier (R43). -/
abbrev frameAt (p : Port) (b : BufId) (l : List Byte) : FrameEnd :=
  { port := p, buf := b, bytes := l, header := headerOf l }

theorem exec_frameEnd (p : Port) (s : State) : exec (.frameEnd p) s = .next (s.receive p .eof) := rfl

/-- A good frame in UP, its buffer held by the port alone, is handed to the Classifier (R43, R125). -/
theorem frameEnd_classify {s : State} {p : Port} {b : BufId} {l : List Byte} (h : s.receiving p b l)
    (hg : goodFrame l) : exec (.frameEnd p) s
      = .next (((s.setPort p (endedGood (s.port p))).classify (frameAt p b l)).settle s) := by
  obtain ⟨hr, hu, hx, -⟩ := h
  have hport : (s.setPort p (lockHeld (s.port p))).port p = lockHeld (s.port p) := State.port_setPort_same _ _ _
  have hdelimit : (s.setPort p (lockHeld (s.port p))).delimit p .eof
      = (s.setPort p (lockHeld (s.port p))).goodEnd p (some b) l := by
    unfold State.delimit
    rw [hport, lockHeld_rx, hx]
    exact rxEof_good hg
  rw [exec_frameEnd, receive_up hr hu (sym := .eof) nofun nofun nofun, hdelimit,
    goodEnd_classify (by rw [hport, lockHeld_isUp]; exact hu), hport, setPort_setPort]
  exact congrArg _ (settle_congr rfl)

/-! ### The steps of the Classifier (R44 to R52) -/

theorem isOwnRequest_iff (s : State) (h : Header) : s.isOwnRequest h = true ↔ s.addressed h := by
  unfold State.isOwnRequest State.addressed
  simp only [Bool.and_eq_true, Bool.or_eq_true, beq_iff_eq, Config.wildcardStation]

section
variable {s : State} {f : FrameEnd}

theorem classify_own (h : s.addressed f.header) : s.classify f = s.capture f := by
  unfold State.classify
  rw [if_pos ((isOwnRequest_iff s _).2 h)]

theorem classify_expired (h : ¬ s.addressed f.header) (hop : f.header.hop = 0) :
    s.classify f = s.dropFrame f fun c => { c with hopExpired := c.hopExpired + 1 } := by
  unfold State.classify
  rw [if_neg (fun ho => h ((isOwnRequest_iff s _).1 ho)), if_pos hop]

theorem classify_hit (h : ¬ s.addressed f.header) (hop : f.header.hop ≠ 0) {i : RulePos} {e : RuleEntry}
    (ho : lookupIn s.activeBank f.port f.header = .hit i e) : s.classify f = (s.bumpHit i).applyEntry f e := by
  unfold State.classify
  rw [if_neg (fun ho => h ((isOwnRequest_iff s _).1 ho)), if_neg hop, ho]

theorem classify_missDrop (h : ¬ s.addressed f.header) (hop : f.header.hop ≠ 0)
    (ho : lookupIn s.activeBank f.port f.header = .miss .drop) :
    s.classify f = s.dropFrame f fun c => { c with missDrop := c.missDrop + 1 } := by
  unfold State.classify
  rw [if_neg (fun ho => h ((isOwnRequest_iff s _).1 ho)), if_neg hop, ho]

theorem classify_missFlood (h : ¬ s.addressed f.header) (hop : f.header.hop ≠ 0)
    (ho : lookupIn s.activeBank f.port f.header = .miss .flood) :
    s.classify f = s.sendCopies f 0xF f.header.prio f.header.tag := by
  unfold State.classify
  rw [if_neg (fun ho => h ((isOwnRequest_iff s _).1 ho)), if_neg hop, ho]

/-- A DROP entry: the flow, if there is one, sees the frame, and it is dropped (R50, R52). -/
theorem applyEntry_drop {e : RuleEntry} (ha : e.action = .drop) :
    s.applyEntry f e
      = (s.flowHandOff e.flow f.header false).1.dropFrame f fun c => { c with ruleDrop := c.ruleDrop + 1 } := by
  unfold State.applyEntry
  rw [ha]

theorem flowHandOff_none (s : State) (h : Header) (forward : Bool) : s.flowHandOff none h forward = (s, .pass) := rfl

theorem capture_joins (ha : (s.port f.port).cfg.accepts = true) (hq : s.agent.queue.length < 4) :
    s.capture f = { s with agent := { s.agent with queue := s.agent.queue ++ [{ buf := f.buf, port := f.port }] } } := by
  unfold State.capture
  rw [if_pos ha]
  exact if_pos hq

theorem capture_overflows (ha : (s.port f.port).cfg.accepts = true) (hq : 4 ≤ s.agent.queue.length) :
    s.capture f = State.dropRef { s with agent := { s.agent with counters :=
      { s.agent.counters with overflow := s.agent.counters.overflow + 1 } } } f.buf := by
  unfold State.capture
  rw [if_pos ha]
  exact if_neg (Nat.not_lt.2 hq)

theorem capture_refused (ha : (s.port f.port).cfg.accepts = false) :
    s.capture f = s.dropFrame f fun c => { c with mgmtRefused := c.mgmtRefused + 1 } := by
  unfold State.capture
  rw [ha]
  rfl

end

/-- A frame dropped: counted at its ingress port, its buffer given back (R56). -/
theorem released_dropFrame (s : State) (f : FrameEnd) (x : PortRec) (count : PortCounters → PortCounters) :
    Released s (((s.setPort f.port x).dropFrame f count).settle s) f.port { x with counters := count x.counters }
      [f.buf] s.notices := by
  have hcount : (s.setPort f.port x).countPort f.port count
      = s.setPort f.port { x with counters := count x.counters } := by
    unfold State.countPort
    rw [State.port_setPort_same, setPort_setPort]
  unfold State.dropFrame
  rw [hcount]
  exact (moved_then_dropRef? (moved_setPort s f.port _) (some f.buf)).settle

theorem setPort_bumpHit (s : State) (p : Port) (x : PortRec) (i : RulePos) :
    (s.setPort p x).bumpHit i = ({ s with hits := s.hits.set i (s.hits.get i + 1) } : State).setPort p x := rfl

/-- Settles O17: the ends that reach no Classifier, and the Classifier's drops without a flow. -/
theorem framesAreDroppedAndCounted : Obligations.FramesAreDroppedAndCounted := by
  refine ⟨fun p b l s hr hx hg => ⟨fun hu hframe => ?_, fun hq => ?_⟩, fun p b l s h hg hown => ?_⟩
  · have hport : (s.setPort p (lockHeld (s.port p))).port p = lockHeld (s.port p) := State.port_setPort_same _ _ _
    have hup : (lockHeld (s.port p)).isUp = true := by rw [lockHeld_isUp]; exact hu
    have hdelimit : (s.setPort p (lockHeld (s.port p))).delimit p .eof
        = (s.setPort p (lockHeld (s.port p))).goodEnd p none l := by
      unfold State.delimit
      rw [hport, lockHeld_rx, hframe]
      exact rxEof_good hg
    have hnot : (lockHeld (s.port p)).isQuarantine = false := by
      obtain ⟨_, _, hl⟩ := isUp_link hup
      unfold PortRec.isQuarantine
      rw [hl]
    rw [exec_frameEnd, receive_up hr hu (sym := .eof) nofun nofun nofun, hdelimit,
      released_nil (released_of_setPort (released_discard l (.inr rfl))), hport, hnot]
    rfl
  · refine ⟨_, by rw [exec_frameEnd, receive_quarantine hr hq, delimit_eof_quarantine hq hx hg], ?_⟩
    have h := released_discard (b := b) l (.inl (not_up_of_quarantine hq))
    rw [hq] at h
    exact h
  · have hown' : ¬ (s.setPort p (endedGood (s.port p))).addressed (headerOf l) := hown
    rw [frameEnd_classify h hg]
    refine ⟨fun hop => ⟨_, rfl, ?_⟩, fun hop hmiss => ⟨_, rfl, ?_⟩, fun i e hop hhit haction hflow => ⟨_, rfl, ?_⟩⟩
    · rw [classify_expired (f := frameAt p b l) hown' hop]
      exact released_dropFrame s _ _ _
    · rw [classify_missDrop (f := frameAt p b l) hown' hop hmiss]
      exact released_dropFrame s _ _ _
    · rw [classify_hit (f := frameAt p b l) hown' hop hhit, setPort_bumpHit, applyEntry_drop haction, hflow,
        flowHandOff_none, settle_congr (base := s) (u := { s with hits := s.hits.set i (s.hits.get i + 1) }) rfl]
      exact released_dropFrame _ (frameAt p b l) _ _

/-- Settles O18: the three ways of a request for this gateway. -/
theorem ownRequestsAreCaptured : Obligations.OwnRequestsAreCaptured := by
  intro p b l s h hg hown
  have hown' : (s.setPort p (endedGood (s.port p))).addressed (headerOf l) := hown
  have haccepts : ((s.setPort p (endedGood (s.port p))).port p).cfg.accepts = (s.port p).cfg.accepts := by
    rw [State.port_setPort_same]
    rfl
  rw [frameEnd_classify h hg, classify_own (f := frameAt p b l) hown']
  refine ⟨fun ha hq => ?_, fun ha hq => ⟨_, rfl, ?_⟩, fun ha => ⟨_, rfl, ?_⟩⟩
  · rw [capture_joins (f := frameAt p b l) (haccepts.trans ha) hq]
    exact congrArg _ (settle_same (Nat.lt_irrefl s.freeCount))
  · rw [capture_overflows (f := frameAt p b l) (haccepts.trans ha) hq,
      settle_congr (base := s) (u := { s with agent := { s.agent with
      counters := { s.agent.counters with overflow := s.agent.counters.overflow + 1 } } }) rfl]
    exact (moved_then_dropRef? (moved_setPort _ p _) (some b)).settle
  · rw [capture_refused (f := frameAt p b l) (haccepts.trans ha)]
    exact released_dropFrame s (frameAt p b l) _ _

end Sys2Proof.FrameEnds
end

section
/-! Steps 5 to 7 of a frame end: the flow hand-off, the egress set, the copies and the transmitted header (03). -/

namespace Sys2Proof.Forwarding
open Sys2Proof.Machine Sys2Proof.Happenings Sys2Proof.Frames Sys2Proof.Course Sys2Proof.PortMoves Sys2Proof.Receptions
  Sys2Proof.FrameEnds

/-! ### The end of a happening (R104) -/

theorem resumed_settle {u v : State} (hh : v.pool.hold = u.pool.hold) :
    u.resumed (v.settle u) = (decide (u.freeCount < v.freeCount) && resumes v) := by
  unfold State.resumed resumes
  rw [settle_freeCount, hh]
  cases u.pool.hold != .normal <;> simp

theorem settle_pool {u v : State} (hh : v.pool.hold = u.pool.hold) :
    (v.settle u).pool = { v.pool with hold := if u.resumed (v.settle u) then .normal else v.pool.hold } := by
  by_cases h : u.freeCount < v.freeCount
  · rw [resumed_settle hh, settle_released_pool h, decide_eq_true h, Bool.true_and]
  · rw [resumed_settle hh, settle_same h, decide_eq_false h]
    rfl

theorem settle_resumed_port {u v : State} (hh : v.pool.hold = u.pool.hold) (q : Port) :
    (v.settle u).port q = { v.port q with
      ctl := (v.port q).ctl ++ if (v.port q).isUp && u.resumed (v.settle u) then [.resume] else [] } := by
  by_cases h : u.freeCount < v.freeCount
  · rw [resumed_settle hh, settle_released_port h, decide_eq_true h, Bool.true_and]
  · rw [resumed_settle hh, settle_same h, decide_eq_false h]
    simp

/-! ### The offers (R55) -/

/-- A port once a copy has been offered to it. -/
def offerTo (e : QueueEntry) (x : PortRec) : PortRec :=
  if x.canAccept then { x with queue := insertEntry e x.queue }
  else { x with counters := { x.counters with queueFull := x.counters.queueFull + 1 } }

theorem offerCopy_eq (s : State) (e : QueueEntry) (q : Port) : s.offerCopy e q = s.setPort q (offerTo e (s.port q)) := by
  unfold State.offerCopy offerTo
  split <;> rfl

theorem offerTo_up {x : PortRec} (hu : x.isUp = true) (b : BufId) (prio : Prio) (t : Instant) :
    offerTo { buf := b, prio := prio, time := t, origin := .forwarded } x = offered x b prio t := by
  unfold offerTo offered PortRec.canAccept
  rw [hu, Bool.true_and]
  simp only [decide_eq_true_eq]

/-- The offers to each port of a list. -/
abbrev offers (s : State) (e : QueueEntry) (qs : List Port) : State := qs.foldl (fun t q => t.offerCopy e q) s

theorem offers_pool (s : State) (e : QueueEntry) (qs : List Port) : (offers s e qs).pool = s.pool := by
  induction qs generalizing s with
  | nil => rfl
  | cons q qs ih =>
    refine (ih (s.offerCopy e q)).trans ?_
    rw [offerCopy_eq]
    rfl

theorem offers_notices (s : State) (e : QueueEntry) (qs : List Port) : (offers s e qs).notices = s.notices := by
  induction qs generalizing s with
  | nil => rfl
  | cons q qs ih =>
    refine (ih (s.offerCopy e q)).trans ?_
    rw [offerCopy_eq]
    rfl

theorem offers_port (s : State) (e : QueueEntry) {qs : List Port} (hq : qs.Nodup) (r : Port) :
    (offers s e qs).port r = if r ∈ qs then offerTo e (s.port r) else s.port r := by
  induction qs generalizing s with
  | nil => rfl
  | cons q qs ih =>
    obtain ⟨hnot, hqs⟩ := List.nodup_cons.1 hq
    refine (ih (s.offerCopy e q) hqs).trans ?_
    rw [offerCopy_eq, State.port_setPort]
    by_cases hr : r = q
    · subst hr
      rw [if_neg hnot, if_pos rfl, if_pos List.mem_cons_self]
    · rw [if_neg hr]
      simp only [List.mem_cons, hr, false_or]

/-! ### The egress set and the copies (R53 to R58) -/

theorem egressSet_eq (u : State) (p : Port) (x : PortRec) (set : PortSet) :
    (u.setPort p x).egressSet p set = (List.finRange 4).filter (u.egress p set) := by
  unfold State.egressSet State.egress
  refine List.filter_congr fun q _ => ?_
  by_cases hq : q = p
  · rw [hq]
    simp
  · rw [State.port_setPort_ne _ _ hq]

theorem sendCopies_nowhere {s : State} {f : FrameEnd} {set : PortSet} (h : s.egressSet f.port set = []) (prio : Prio)
    (tag : Tag) : s.sendCopies f set prio tag = s.dropFrame f fun c => { c with noRoute := c.noRoute + 1 } := by
  unfold State.sendCopies
  rw [h]
  rfl

/-- The buffer of a frame whose copies have been offered to `n` ports that accepted one (R56, R58). -/
def sentBuffer (x : Buffer) (f : FrameEnd) (n : Nat) (prio : Prio) (tag : Tag) : Buffer :=
  if n = 0 then dropBuffer x else { refs := n, bytes := rewriteHeader f.bytes f.header prio tag }

theorem sendCopies_somewhere {s : State} {f : FrameEnd} {set : PortSet} (h : s.egressSet f.port set ≠ []) (prio : Prio)
    (tag : Tag) :
    s.sendCopies f set prio tag =
      (offers s { buf := f.buf, prio := prio, time := s.localTime, origin := .forwarded } (s.egressSet f.port set)).setBuf
        f.buf (sentBuffer (s.buf f.buf) f ((s.egressSet f.port set).countP fun q => (s.port q).canAccept) prio tag) := by
  have hne : ¬ (s.egressSet f.port set).isEmpty = true := by simpa using h
  have hbuf : (offers s { buf := f.buf, prio := prio, time := s.localTime, origin := .forwarded }
      (s.egressSet f.port set)).buf f.buf = s.buf f.buf := by
    unfold State.buf
    rw [offers_pool]
  unfold State.sendCopies sentBuffer
  dsimp only
  rw [if_neg hne]
  split
  · unfold State.dropRef
    rw [hbuf]
  · rfl

/-- Steps 6 and 7 of a frame end whose buffer the ingress port alone held. -/
theorem forwarded_sendCopies {u : State} {p : Port} {b : BufId} {l : List Byte} (hb : (u.buf b).refs = 1)
    (set : PortSet) (prio : Prio) (tag : Tag) :
    Forwarded u (((u.setPort p (endedGood (u.port p))).sendCopies (frameAt p b l) set prio tag).settle u) p b l set prio
      tag := by
  have hout := egressSet_eq u p (endedGood (u.port p)) set
  by_cases hroute : ∃ q, u.egress p set q = true
  · obtain ⟨r, hr⟩ := hroute
    have hmem : ∀ q, q ∈ (List.finRange 4).filter (u.egress p set) ↔ u.egress p set q = true := fun q => by simp
    have hne : (u.setPort p (endedGood (u.port p))).egressSet p set ≠ [] := by
      rw [hout]
      exact List.ne_nil_of_mem ((hmem r).2 hr)
    have hup : ∀ q, u.egress p set q = true → q ≠ p ∧ (u.port q).isUp = true := fun q hq => by
      unfold State.egress at hq
      simp only [Bool.and_eq_true, bne_iff_ne] at hq
      exact ⟨hq.1.2, hq.2⟩
    have hcount : ((u.setPort p (endedGood (u.port p))).egressSet p set).countP
          (fun q => ((u.setPort p (endedGood (u.port p))).port q).canAccept)
        = (List.finRange 4).countP fun q =>
          u.egress p set q && decide ((u.port q).queue.length < (u.port q).cfg.queueLimit) := by
      rw [hout, List.countP_filter]
      refine List.countP_congr fun q _ => ?_
      cases hq : u.egress p set q with
      | false => simp
      | true =>
        obtain ⟨hqp, hqu⟩ := hup q hq
        rw [State.port_setPort_ne _ _ hqp]
        unfold PortRec.canAccept
        rw [hqu]
        simp
    rw [sendCopies_somewhere (f := frameAt p b l) hne, hcount, hout]
    generalize hw : State.setBuf _ b _ = w
    have hframe : u.sameButLinks w := by
      rw [← hw]
      exact sameButLinks_trans (sameButLinks_trans (setPort_sameButLinks u p _) (offerCopies_sameButLinks _ _ _))
        (setBuf_sameButLinks _ _ _)
    have hpool : w.pool = { u.pool with bufs := w.pool.bufs } := by
      rw [← hw]
      unfold State.setBuf
      rw [offers_pool]
      rfl
    have hnotices : w.notices = u.notices := by
      rw [← hw]
      exact offers_notices _ _ _
    have hport : ∀ q, w.port q = if u.egress p set q then offered (u.port q) b prio u.localTime
        else if q = p then endedGood (u.port p) else u.port q := by
      intro q
      rw [← hw, State.port_setBuf, offers_port _ _ ((List.nodup_finRange 4).filter _), State.port_setPort]
      simp only [hmem]
      split
      · next hq =>
        obtain ⟨hqp, hqu⟩ := hup q hq
        rw [if_neg hqp]
        exact offerTo_up hqu b prio _
      · rfl
    have hbuf : ∀ c, w.buf c = if c = b then
        sentBuffer (u.buf b) (frameAt p b l) ((List.finRange 4).countP fun q =>
          u.egress p set q && decide ((u.port q).queue.length < (u.port q).cfg.queueLimit)) prio tag
        else u.buf c := by
      intro c
      rw [← hw, State.buf_setBuf]
      split
      · rfl
      · unfold State.buf
        rw [offers_pool]
        rfl
    have hhold : w.pool.hold = u.pool.hold := by rw [hpool]
    clear hw
    have hself : u.egress p set p = false := by simp [State.egress]
    refine ⟨fun hnone => absurd hr (by rw [hnone r]; exact Bool.false_ne_true), ?_, fun _ q hq => ?_, fun _ => ?_,
      fun _ c => ?_, ?_⟩
    · have hs := sameButLinks_trans hframe (settle_sameButLinks w u)
      have hn : (w.settle u).notices = u.notices := by rw [settle_notices, hnotices]
      unfold State.sameButLinks at hs
      rw [hn] at hs
      exact hs
    · rw [settle_resumed_port hhold, hport q, if_neg hq]
    · rw [settle_resumed_port hhold, hport p, hself, if_neg Bool.false_ne_true, if_pos rfl]
    · rw [settle_buf, hbuf]
      unfold sentBuffer rewriteHeader
      split
      · dsimp only
        split
        · exact if_pos (by omega)
        · rfl
      · rfl
    · rw [settle_pool hhold, hpool]
  · have hnone : ∀ q, u.egress p set q = false := fun q => by
      cases hq : u.egress p set q with
      | false => rfl
      | true => exact absurd ⟨q, hq⟩ hroute
    have hempty : (u.setPort p (endedGood (u.port p))).egressSet p set = [] := by
      rw [hout]
      exact List.filter_eq_nil_iff.2 fun q _ => by rw [hnone q]; exact Bool.false_ne_true
    have hdrop := released_dropFrame u (frameAt p b l) (endedGood (u.port p)) fun c => { c with noRoute := c.noRoute + 1 }
    rw [sendCopies_nowhere (f := frameAt p b l) hempty]
    generalize State.settle _ u = t at hdrop
    exact ⟨fun _ => hdrop, hdrop.rest, fun h => absurd h hroute, fun h => absurd h hroute, fun h => absurd h hroute,
      hdrop.pool⟩

/-! ### The flow hand-off (R52, R68) -/

/-- The notices once a flow has seen a frame at cell time `time` (R75). -/
def noticesWith (u : NoticeUnit) (n : Option FlowNotice) (time : Instant) (k : FlowIx) : NoticeUnit :=
  match n with
  | some (kind, detail) => pushNotice u kind time (byteOf k) detail
  | none => u

/-- The state in which a bound flow has seen a frame, its entry now `g` and its notice `n` (R68, R75). -/
def observedBy (s : State) (i : RulePos) (k : FlowIx) (g : FlowEntry) (n : Option FlowNotice) : State :=
  State.setFlow { s with
    hits := s.hits.set i (s.hits.get i + 1), notices := noticesWith s.notices n s.cellTime k } k g

theorem flowHandOff_some (s : State) (p : Port) (x : PortRec) (i : RulePos) (k : FlowIx) (h : Header) (forward : Bool) :
    ((s.setPort p x).bumpHit i).flowHandOff (some k) h forward =
      ((observedBy s i k (handOff s.localTime (frameLength h) forward (s.flow k)).1
          (handOff s.localTime (frameLength h) forward (s.flow k)).2.2).setPort p x,
        (handOff s.localTime (frameLength h) forward (s.flow k)).2.1) := by
  have hhand : handOff ((s.setPort p x).bumpHit i).localTime (frameLength h) forward (((s.setPort p x).bumpHit i).flow k)
      = handOff s.localTime (frameLength h) forward (s.flow k) := rfl
  unfold State.flowHandOff
  dsimp only
  rw [hhand]
  generalize handOff s.localTime (frameLength h) forward (s.flow k) = o
  obtain ⟨g, v, _ | ⟨kind, detail⟩⟩ := o
  · rfl
  · rfl

section
variable {s t : State} {f : FrameEnd} {e : RuleEntry} {set : PortSet} {newPrio : Option Prio} {rewrite : Option Rewrite}

theorem applyEntry_pass (ha : e.action = .forward set newPrio rewrite)
    (h : s.flowHandOff e.flow f.header true = (t, .pass)) :
    s.applyEntry f e = t.sendCopies f set (newPrio.getD f.header.prio) (rewriteTag rewrite f.header.tag) := by
  unfold State.applyEntry
  rw [ha]
  dsimp only
  rw [h]

theorem applyEntry_demote (ha : e.action = .forward set newPrio rewrite)
    (h : s.flowHandOff e.flow f.header true = (t, .demote)) :
    s.applyEntry f e = t.sendCopies f set 0 (rewriteTag rewrite f.header.tag) := by
  unfold State.applyEntry
  rw [ha]
  dsimp only
  rw [h]

theorem applyEntry_policed (ha : e.action = .forward set newPrio rewrite)
    (h : s.flowHandOff e.flow f.header true = (t, .drop)) :
    s.applyEntry f e = t.dropFrame f fun c => { c with policedDrop := c.policedDrop + 1 } := by
  unfold State.applyEntry
  rw [ha]
  dsimp only
  rw [h]

end

/-- Settles O25: the flow's part first, then the copies or the drop in the state it leaves. -/
theorem boundFlowsObserveAndPolice : Obligations.BoundFlowsObserveAndPolice := by
  intro p b l i e k s h hg hown hop hhit hflow
  have hown' : ¬ (s.setPort p (endedGood (s.port p))).addressed (headerOf l) := hown
  obtain ⟨-, -, -, hb⟩ := id h
  have hand := fun forward => flowHandOff_some s p (endedGood (s.port p)) i k (headerOf l) forward
  rw [← hflow] at hand
  have hlength : frameLength (headerOf l) = (byteAt l 4).toNat + 8 := rfl
  rw [frameEnd_classify h hg, classify_hit (f := frameAt p b l) hown' hop hhit]
  unfold handOff observedBy at hand
  rw [hlength] at hand
  generalize observe s.localTime (s.flow k) = o at hand
  dsimp only at hand ⊢
  refine ⟨fun set newPrio rewrite ha => ⟨_, rfl, ?_⟩, fun ha => ⟨_, rfl, ?_⟩⟩
  · have hforward := hand true
    rw [if_pos rfl] at hforward
    generalize police s.localTime ((byteAt l 4).toNat + 8) o.1 = v at hforward ⊢
    refine ⟨fun hv => ?_, fun hv => ?_, fun hv => ?_⟩
    · rw [hv] at hforward
      rw [applyEntry_pass (f := frameAt p b l) ha hforward, settle_congr (base := s) (u := observedBy s i k v.1 o.2) rfl]
      exact forwarded_sendCopies (u := observedBy s i k v.1 o.2) hb _ _ _
    · rw [hv] at hforward
      rw [applyEntry_demote (f := frameAt p b l) ha hforward,
        settle_congr (base := s) (u := observedBy s i k v.1 o.2) rfl]
      exact forwarded_sendCopies (u := observedBy s i k v.1 o.2) hb _ _ _
    · rw [hv] at hforward
      rw [applyEntry_policed (f := frameAt p b l) ha hforward,
        settle_congr (base := s) (u := observedBy s i k v.1 o.2) rfl]
      exact released_dropFrame (observedBy s i k v.1 o.2) (frameAt p b l) _ _
  · rw [applyEntry_drop (f := frameAt p b l) ha, hand false, settle_congr (base := s) (u := observedBy s i k o.1 o.2) rfl]
    exact released_dropFrame (observedBy s i k o.1 o.2) (frameAt p b l) _ _

/-! ### No copy to the ingress port (R53) -/

theorem classified_ingress {s t : State} {f : FrameEnd} (h : Classified s f t) :
    (t.port f.port).queue = (s.port f.port).queue ∧ (t.port f.port).tx = (s.port f.port).tx := by
  have hshown : ∀ u, Shown s u → u.port f.port = s.port f.port := fun u hu => by
    unfold State.port
    rw [shown_frame hu]
  cases h with
  | captured => exact ⟨rfl, rfl⟩
  | lost => exact ⟨rfl, rfl⟩
  | @dropped u hu count =>
    unfold State.dropFrame State.countPort
    rw [dropRef_port, State.port_setPort_same, hshown u hu]
    exact ⟨rfl, rfl⟩
  | @sent u hu set prio tag =>
    rw [← hshown u hu]
    by_cases hout : u.egressSet f.port set = []
    · rw [sendCopies_nowhere hout]
      unfold State.dropFrame State.countPort
      rw [dropRef_port, State.port_setPort_same]
      exact ⟨rfl, rfl⟩
    · have hnot : f.port ∉ u.egressSet f.port set := by
        unfold State.egressSet
        simp
      rw [sendCopies_somewhere hout, State.port_setBuf, offers_port, if_neg hnot]
      · exact ⟨rfl, rfl⟩
      · exact (List.nodup_finRange 4).filter _

/-- Settles O19: a miss that floods and a FORWARD entry without a flow send copies; the Classifier's own branches leave
the ingress port's queue and transmitter alone. -/
theorem framesAreForwarded : Obligations.FramesAreForwarded := by
  refine ⟨fun p b l s h hg hown hop => ⟨fun hmiss => ?_, fun i e set newPrio rewrite hhit hflow ha => ?_⟩,
    fun p b l s t h hg hexec => ?_⟩
  · have hown' : ¬ (s.setPort p (endedGood (s.port p))).addressed (headerOf l) := hown
    obtain ⟨-, -, -, hb⟩ := id h
    rw [frameEnd_classify h hg, classify_missFlood (f := frameAt p b l) hown' hop hmiss]
    exact ⟨_, rfl, forwarded_sendCopies hb _ _ _⟩
  · have hown' : ¬ (s.setPort p (endedGood (s.port p))).addressed (headerOf l) := hown
    obtain ⟨-, -, -, hb⟩ := id h
    have hhand : ((s.setPort p (endedGood (s.port p))).bumpHit i).flowHandOff e.flow (headerOf l) true
        = ((s.setPort p (endedGood (s.port p))).bumpHit i, .pass) := by
      rw [hflow, flowHandOff_none]
    rw [frameEnd_classify h hg, classify_hit (f := frameAt p b l) hown' hop hhit,
      applyEntry_pass (f := frameAt p b l) ha hhand, setPort_bumpHit,
      settle_congr (base := s) (u := { s with hits := s.hits.set i (s.hits.get i + 1) }) rfl]
    exact ⟨_, rfl, forwarded_sendCopies (u := { s with hits := s.hits.set i (s.hits.get i + 1) }) hb _ _ _⟩
  · rw [frameEnd_classify h hg] at hexec
    cases hexec
    obtain ⟨hqueue, htx⟩ := classified_ingress (classified_classify (s.setPort p (endedGood (s.port p))) (frameAt p b l))
    rw [State.port_setPort_same] at hqueue htx
    rw [settle_port]
    exact ⟨hqueue, htx⟩

end Sys2Proof.Forwarding
end

section
/-! What keeps the buffers' reference counts (R97, R100, R125, R145): the account of a state in which an operation holds
some buffers itself, between taking them from one holder and giving them to another or back to the pool. -/

namespace Sys2Proof.References
open Sys2Proof.Machine Sys2Proof.Happenings Sys2Proof.Frames Sys2Proof.Course Sys2Proof.PortMoves Sys2Proof.Receptions
  Sys2Proof.PortTimers Sys2Proof.FrameEnds Sys2Proof.Forwarding

/-! ### Counting the holders -/

theorem held_count (x : PortRec) (b : BufId) : x.held.count b = (rxRefs x).count b + (flushedRefs x).count b := by
  unfold PortRec.held rxRefs flushedRefs
  cases x.rx with
  | frame o l => cases o <;> simp only [List.count_append, Nat.add_assoc]
  | _ => simp only [List.count_append, Nat.add_assoc]

theorem holders_count (s : State) (b : BufId) :
    s.holders.count b = (∑ p, (s.port p).held.count b) + (s.agent.queue.map (·.buf)).count b := by
  unfold State.holders
  rw [List.count_append, List.count_flatMap, Fin.sum_univ_def]
  rfl

theorem sum_change {f g : Port → Nat} {p : Port} (h : ∀ q, q ≠ p → g q = f q) :
    (∑ q, g q) + f p = (∑ q, f q) + g p := by
  have hrest : ∑ q ∈ Finset.univ.erase p, g q = ∑ q ∈ Finset.univ.erase p, f q :=
    Finset.sum_congr rfl fun q hq => h q (Finset.ne_of_mem_erase hq)
  rw [← Finset.add_sum_erase _ g (Finset.mem_univ p), ← Finset.add_sum_erase _ f (Finset.mem_univ p), hrest]
  omega

/-- One port's record changes: the holders change by what it holds. -/
theorem holders_change {s t : State} {p : Port} (h : ∀ q, q ≠ p → (t.port q).held = (s.port q).held)
    (hq : t.agent.queue = s.agent.queue) (b : BufId) :
    t.holders.count b + (s.port p).held.count b = s.holders.count b + (t.port p).held.count b := by
  have hsum := sum_change (f := fun q => (s.port q).held.count b) (g := fun q => (t.port q).held.count b) (p := p)
    fun q hne => by rw [h q hne]
  rw [holders_count, holders_count, hq]
  omega

/-- A buffer that a reception holds is among the holders' (R97). -/
theorem holders_of_rx {s : State} {p : Port} {b : BufId} (h : b ∈ rxRefs (s.port p)) : 1 ≤ s.holders.count b := by
  have hheld : 1 ≤ (s.port p).held.count b := by
    rw [held_count]
    have := List.count_pos_iff.2 h
    omega
  have hsum := Finset.single_le_sum (f := fun q => (s.port q).held.count b) (fun _ _ => Nat.zero_le _)
    (Finset.mem_univ p)
  rw [holders_count]
  omega

theorem holders_of_request {s : State} {r : Request} (h : r ∈ s.agent.queue) : 1 ≤ s.holders.count r.buf := by
  have : 0 < (s.agent.queue.map (·.buf)).count r.buf := List.count_pos_iff.2 (List.mem_map_of_mem h)
  rw [holders_count]
  omega

theorem less_refs (x : Buffer) (n : Nat) : (x.less n).refs = x.refs - n := by
  unfold Buffer.less
  split
  · next h => rw [h, Nat.sub_zero]
  · split
    · next h => exact (Nat.sub_eq_zero_of_le h).symm
    · rfl

theorem less_free {x : Buffer} {n : Nat} (hx : x.refs = 0 → x = freeBuffer) (h : (x.less n).refs = 0) :
    x.less n = freeBuffer := by
  unfold Buffer.less at h ⊢
  split
  · next hn => rw [if_pos hn] at h; exact hx h
  · next hn =>
    rw [if_neg hn] at h
    split
    · rfl
    · next hr => rw [if_neg hr] at h; dsimp only at h; omega

/-! ### The account -/

/-- Every reference is held in the part, or is one of `loose`, which the operation in progress holds; and what a
reception, a request or the operation holds is in one hand (R97, R100, R125, R145). -/
structure Account (s : State) (loose : List BufId) : Prop where
  refs : ∀ b, (s.buf b).refs = s.holders.count b + loose.count b
  wf : s.pool.wf
  receptions : ∀ p, ∀ b ∈ rxRefs (s.port p), (s.buf b).refs = 1
  requests : ∀ r ∈ s.agent.queue, (s.buf r.buf).refs = 1
  single : ∀ b ∈ loose, (s.buf b).refs = 1
  placed : ∀ p, (s.port p).rx.inside.isSome = true → PortRec.receives (s.port p)

theorem mem_rxRefs {x : PortRec} {b : BufId} : b ∈ rxRefs x ↔ ∃ l, x.rx = .frame (some b) l := by
  unfold rxRefs
  cases hx : x.rx with
  | frame o l => cases o <;> simp [eq_comm]
  | _ => simp

theorem refsInv_iff {s : State} : s.refsInv ↔ Account s [] := by
  constructor
  · rintro ⟨hrefs, hwf, ⟨hrx, hreq⟩, hplaced⟩
    refine ⟨hrefs, hwf, fun p b hb => ?_, hreq, fun b hb => absurd hb List.not_mem_nil, hplaced⟩
    obtain ⟨l, hl⟩ := mem_rxRefs.1 hb
    exact hrx p b l hl
  · intro h
    exact ⟨h.refs, h.wf, ⟨fun p b l hl => h.receptions p b (mem_rxRefs.2 ⟨l, hl⟩), h.requests⟩, h.placed⟩

theorem held_ctl (x : PortRec) (c : List Ctl) : ({ x with ctl := c } : PortRec).held = x.held := rfl

/-- The account after a happening at one port, `x` its record but for the control symbols: what the port and the
operation held is what they hold then and what has been given back. -/
theorem account_step {s t : State} {loose loose' : List BufId} {p : Port} {x : PortRec} {bs : List BufId}
    (h : Account s loose) (hown : ∃ c, t.port p = { x with ctl := c })
    (hothers : ∀ q, q ≠ p → ∃ c, t.port q = { s.port q with ctl := c })
    (hbufs : ∀ b, t.buf b = (s.buf b).less (bs.count b)) (hqueue : t.agent.queue = s.agent.queue)
    (hheld : ∀ b, (rxRefs x).count b + (flushedRefs x).count b + bs.count b + loose'.count b
      = (rxRefs (s.port p)).count b + (flushedRefs (s.port p)).count b + loose.count b)
    (hrx : ∀ b ∈ rxRefs x ++ loose', b ∈ rxRefs (s.port p) ++ loose)
    (hplaced : x.rx.inside.isSome = true → PortRec.receives x) : Account t loose' := by
  obtain ⟨c, hport⟩ := hown
  have hsame : ∀ q, q ≠ p → (t.port q).held = (s.port q).held := fun q hq => by
    obtain ⟨d, hd⟩ := hothers q hq
    rw [hd, held_ctl]
  have hrefs : ∀ b, (t.buf b).refs = t.holders.count b + loose'.count b := by
    intro b
    have hchange := holders_change hsame hqueue b
    have hown : (t.port p).held = x.held := by rw [hport, held_ctl]
    rw [hown, held_count, held_count] at hchange
    rw [hbufs, less_refs, h.refs]
    have := hheld b
    omega
  have hle : ∀ b, (s.buf b).refs = 1 → 1 ≤ t.holders.count b + loose'.count b → (t.buf b).refs = 1 := by
    intro b h1 h2
    have hless : (t.buf b).refs ≤ (s.buf b).refs := by
      rw [hbufs, less_refs]
      exact Nat.sub_le _ _
    rw [hrefs] at hless ⊢
    omega
  have hone : ∀ b ∈ rxRefs x ++ loose', (s.buf b).refs = 1 := by
    intro b hb
    obtain hb | hb := List.mem_append.1 (hrx b hb)
    · exact h.receptions p b hb
    · exact h.single b hb
  have hrxport : rxRefs (t.port p) = rxRefs x := by rw [hport]; rfl
  refine ⟨hrefs, fun b hb => ?_, fun q b hb => ?_, fun r hr => ?_, fun b hb => ?_, fun q hq => ?_⟩
  · have hbuf : t.pool.bufs.get b = (s.buf b).less (bs.count b) := hbufs b
    rw [hbuf] at hb ⊢
    exact less_free (h.wf b) hb
  · refine hle b ?_ (Nat.le_add_right_of_le (holders_of_rx hb))
    by_cases hqp : q = p
    · rw [hqp, hrxport] at hb
      exact hone b (List.mem_append_left _ hb)
    · obtain ⟨d, hd⟩ := hothers q hqp
      rw [hd] at hb
      exact h.receptions q b hb
  · refine hle _ ?_ (Nat.le_add_right_of_le (holders_of_request hr))
    rw [hqueue] at hr
    exact h.requests r hr
  · have := List.count_pos_iff.2 hb
    exact hle b (hone b (List.mem_append_right _ hb)) (by omega)
  · by_cases hqp : q = p
    · rw [hqp, hport] at hq ⊢
      exact hplaced hq
    · obtain ⟨d, hd⟩ := hothers q hqp
      rw [hd] at hq ⊢
      exact h.placed q hq

section
variable {s t v : State} {p : Port} {x : PortRec} {bs loose loose' : List BufId} {u : NoticeUnit}

theorem account_moved (h : Account s loose) (hm : Moved s v p x bs u)
    (hheld : ∀ b, (rxRefs x).count b + (flushedRefs x).count b + bs.count b + loose'.count b
      = (rxRefs (s.port p)).count b + (flushedRefs (s.port p)).count b + loose.count b)
    (hrx : ∀ b ∈ rxRefs x ++ loose', b ∈ rxRefs (s.port p) ++ loose)
    (hplaced : x.rx.inside.isSome = true → PortRec.receives x) : Account v loose' :=
  account_step h ⟨x.ctl, hm.own⟩ (fun q hq => ⟨(s.port q).ctl, hm.others q hq⟩) hm.bufs (by rw [hm.rest]) hheld hrx
    hplaced

theorem account_released (h : Account s loose) (hr : Released s t p x bs u)
    (hheld : ∀ b, (rxRefs x).count b + (flushedRefs x).count b + bs.count b + loose'.count b
      = (rxRefs (s.port p)).count b + (flushedRefs (s.port p)).count b + loose.count b)
    (hrx : ∀ b ∈ rxRefs x ++ loose', b ∈ rxRefs (s.port p) ++ loose)
    (hplaced : x.rx.inside.isSome = true → PortRec.receives x) : Account t loose' :=
  account_step h ⟨_, hr.own⟩ (fun q hq => ⟨_, hr.others q hq⟩) hr.bufs (by rw [hr.rest]) hheld hrx hplaced

/-- A port that keeps its holdings, where it may hold them. -/
theorem account_setPort (h : Account s loose) (hrx : rxRefs x = rxRefs (s.port p))
    (hflushed : flushedRefs x = flushedRefs (s.port p)) (hplaced : x.rx.inside.isSome = true → PortRec.receives x) :
    Account (s.setPort p x) loose := by
  refine account_moved h (moved_setPort s p x) (fun b => ?_) (fun b hb => ?_) hplaced
  · rw [hrx, hflushed]
    rfl
  · rwa [hrx] at hb

/-- What changes no buffer, no request and no more of the ports than the control symbols keeps the account. -/
theorem account_calm (h : Account s loose) (hports : ∀ q, ∃ c, t.port q = { s.port q with ctl := c })
    (hbufs : ∀ b, t.buf b = s.buf b) (hqueue : t.agent.queue = s.agent.queue) : Account t loose := by
  obtain ⟨c, hc⟩ := hports 0
  refine account_step (p := 0) (x := s.port 0) (bs := []) h ⟨c, hc⟩ (fun q _ => hports q) (fun b => ?_) hqueue
    (fun _ => rfl) (fun _ hb => hb) (h.placed 0)
  rw [hbufs, List.count_nil, less_zero]

theorem account_same (h : Account s loose) (hports : t.ports = s.ports) (hbufs : t.pool.bufs = s.pool.bufs)
    (hqueue : t.agent.queue = s.agent.queue) : Account t loose := by
  refine account_calm h (fun q => ⟨(s.port q).ctl, ?_⟩) (fun b => ?_) hqueue
  · unfold State.port
    rw [hports]
  · unfold State.buf
    rw [hbufs]

theorem account_settle (h : Account s loose) (base : State) : Account (s.settle base) loose :=
  account_calm h (fun q => ⟨_, settle_port s base q⟩) (settle_buf s base) (by rw [settle_sameButLinks s base])

theorem account_dropRef {b : BufId} (h : Account s (b :: loose)) : Account (s.dropRef b) loose := by
  refine account_moved h (moved_dropRef s 0 b) (fun c => ?_) (fun c hc => ?_) (h.placed 0)
  · rw [List.count_cons, List.count_cons, List.count_nil]
    omega
  · obtain hc | hc := List.mem_append.1 hc
    · exact List.mem_append_left _ hc
    · exact List.mem_append_right _ (List.mem_cons_of_mem _ hc)

/-- An allocation: the operation holds the buffer (R98). -/
theorem account_alloc {n : Nat} (hn : 1 ≤ n) {b : BufId} (h : Account s loose) (ha : s.alloc n = some (b, t)) :
    Account t (b :: loose) := by
  have hal := alloc_allocated hn ha
  have hfree := hal.wasFree
  have hqueue : t.agent.queue = s.agent.queue := by rw [hal.rest]
  have hheld : ∀ q, (t.port q).held = (s.port q).held := fun q => by rw [hal.ports q, held_ctl]
  have hholders : ∀ c, t.holders.count c = s.holders.count c := fun c => by
    have := holders_change (s := s) (t := t) (p := 0) (fun q _ => hheld q) hqueue c
    rw [hheld 0] at this
    omega
  have hkeep : ∀ c, (s.buf c).refs = 1 → (t.buf c).refs = 1 := by
    intro c hc
    rw [hal.bufs]
    split
    · rfl
    · exact hc
  have hzero := h.refs b
  rw [hfree] at hzero
  refine ⟨fun c => ?_, wf_alloc h.wf ha, fun q c hc => ?_, fun r hr => ?_, fun c hc => ?_, fun q hq => ?_⟩
  · rw [hal.bufs, hholders, List.count_cons]
    split
    · next hcb =>
      subst hcb
      simp only [beq_self_eq_true, if_true]
      omega
    · next hcb =>
      have hne : (b == c) = false := beq_false_of_ne fun e => hcb e.symm
      rw [hne, h.refs]
      rfl
  · rw [hal.ports q] at hc
    exact hkeep c (h.receptions q c hc)
  · rw [hqueue] at hr
    exact hkeep _ (h.requests r hr)
  · obtain rfl | hc := List.mem_cons.1 hc
    · rw [hal.bufs, if_pos rfl]
    · exact hkeep c (h.single c hc)
  · rw [hal.ports q] at hq ⊢
    exact h.placed q hq

/-- Bytes written into a buffer that is held. -/
theorem account_write (h : Account s loose) {b : BufId} (hb : (s.buf b).refs ≠ 0) (l : List Byte) :
    Account (s.setBuf b { s.buf b with bytes := l }) loose := by
  have hrefs : ∀ c, ((s.setBuf b { s.buf b with bytes := l }).buf c).refs = (s.buf c).refs := by
    intro c
    rw [State.buf_setBuf]
    split
    · next hc => rw [hc]
    · rfl
  refine ⟨fun c => (hrefs c).trans (h.refs c), wf_setBuf h.wf b fun e => absurd e hb,
    fun q c hc => (hrefs c).trans (h.receptions q c hc), fun r hr => (hrefs _).trans (h.requests r hr),
    fun c hc => (hrefs c).trans (h.single c hc), h.placed⟩

theorem account_writeLoose {b : BufId} (h : Account s loose) (hb : b ∈ loose) (l : List Byte) :
    Account (s.writeFrame b l) loose :=
  account_write h (by rw [h.single b hb]; exact Nat.one_ne_zero) l

/-- An entry joins a queue: the operation's hold on the buffer becomes the entry's (R108). -/
theorem account_enqueue {e : QueueEntry} (h : Account s (e.buf :: loose)) (p : Port) :
    Account (s.enqueue p e) loose := by
  refine account_moved h (moved_setPort s p _) (fun b => ?_) (fun b hb => ?_) (h.placed p)
  · have hperm : (insertEntry e (s.port p).queue).map (·.buf) |>.Perm ((e :: (s.port p).queue).map (·.buf)) :=
      (insertEntry_perm e _).map _
    have hcount := hperm.count_eq b
    unfold flushedRefs rxRefs
    simp only [List.count_append, List.map_cons, List.count_cons, List.count_nil] at hcount ⊢
    omega
  · obtain hb | hb := List.mem_append.1 hb
    · exact List.mem_append_left _ hb
    · exact List.mem_append_right _ (List.mem_cons_of_mem _ hb)

end

/-! ### Moves of one port -/

/-- A move after which the port's reception holds `rs` and its queue and transmitter `fs`. -/
theorem account_move {s v : State} {p : Port} {x : PortRec} {bs loose rs fs : List BufId} {u : NoticeUnit}
    (h : Account s loose) (hm : Moved s v p x bs u) (hrs : rxRefs x = rs) (hfs : flushedRefs x = fs)
    (hheld : ∀ b, rs.count b + fs.count b + bs.count b
      = (rxRefs (s.port p)).count b + (flushedRefs (s.port p)).count b)
    (hsub : rs ⊆ rxRefs (s.port p)) (hplaced : x.rx.inside.isSome = true → PortRec.receives x) : Account v loose := by
  refine account_moved h hm (fun b => ?_) (fun b hb => ?_) hplaced
  · rw [hrs, hfs, hheld]
  · rw [hrs] at hb
    obtain hb | hb := List.mem_append.1 hb
    · exact List.mem_append_left _ (hsub hb)
    · exact List.mem_append_right _ hb

theorem account_release {s t : State} {p : Port} {x : PortRec} {bs loose rs fs : List BufId} {u : NoticeUnit}
    (h : Account s loose) (hm : Released s t p x bs u) (hrs : rxRefs x = rs) (hfs : flushedRefs x = fs)
    (hheld : ∀ b, rs.count b + fs.count b + bs.count b
      = (rxRefs (s.port p)).count b + (flushedRefs (s.port p)).count b)
    (hsub : rs ⊆ rxRefs (s.port p)) (hplaced : x.rx.inside.isSome = true → PortRec.receives x) : Account t loose := by
  refine account_released h hm (fun b => ?_) (fun b hb => ?_) hplaced
  · rw [hrs, hfs, hheld]
  · rw [hrs] at hb
    obtain hb | hb := List.mem_append.1 hb
    · exact List.mem_append_left _ (hsub hb)
    · exact List.mem_append_right _ hb

section
variable {s : State} {p : Port} {loose : List BufId}

/-- A port that does not receive is inside no frame. -/
theorem not_inside (h : Account s loose) (hp : ¬ PortRec.receives (s.port p)) : (s.port p).rx.inside = none := by
  cases hx : (s.port p).rx.inside with
  | none => rfl
  | some o => exact absurd (h.placed p (by rw [hx]; rfl)) hp

theorem not_receives {x : PortRec} (hu : x.isUp = false) (hq : x.isQuarantine = false) : ¬ PortRec.receives x := by
  rintro (h | h)
  · exact absurd (hu.symm.trans h) Bool.noConfusion
  · exact absurd (hq.symm.trans h) Bool.noConfusion

theorem account_enterTraining (h : Account s loose) (p : Port) : Account (s.enterTraining p) loose := by
  by_cases hs : (s.port p).score < (s.port p).cfg.quarantineThreshold
  · refine account_move h (moved_then_enterTraining (Moved.refl s p) hs) (rs := []) rfl rfl (fun b => ?_)
      (List.nil_subset _) nofun
    show 0 + (flushedRefs (s.port p)).count b + (rxRefs (s.port p)).count b = _
    omega
  · refine account_move h (moved_then_enterTraining_at (Moved.refl s p) (Nat.le_of_not_lt hs)) (rs := []) rfl rfl
      (fun b => ?_) (List.nil_subset _) nofun
    show 0 + (flushedRefs (s.port p)).count b + (rxRefs (s.port p)).count b = _
    omega

theorem account_loseLock (h : Account s loose) (p : Port) : Account (s.loseLock p) loose := by
  have hleft := moved_leaveUp s p (.training 0)
  by_cases hs : (s.port p).score < (s.port p).cfg.quarantineThreshold
  · refine account_move h (moved_then_enterTraining hleft hs) (rs := []) rfl rfl (fun b => ?_) (List.nil_subset _) nofun
    show 0 + 0 + (flushedRefs (s.port p) ++ rxRefs (s.port p)).count b = _
    rw [List.count_append]
    omega
  · refine account_move h (moved_then_enterTraining_at hleft (Nat.le_of_not_lt hs)) (rs := []) rfl rfl (fun b => ?_)
      (List.nil_subset _) nofun
    show 0 + 0 + (flushedRefs (s.port p) ++ rxRefs (s.port p)).count b = _
    rw [List.count_append]
    omega

theorem account_endQuarantine (h : Account s loose) (p : Port) : Account (s.endQuarantine p) loose := by
  unfold State.endQuarantine
  refine account_enterTraining (account_setPort h ?_ ?_ ?_) p
  · rfl
  · rfl
  · exact h.placed p

theorem account_signalOn (h : Account s loose) (p : Port) : Account (s.signalOn p) loose := by
  have hset : Account (s.setPort p { s.port p with signal := true }) loose := account_setPort h rfl rfl (h.placed p)
  by_cases hl : (s.port p).link = .down
  · rw [signalOn_of_down hl]
    exact account_enterTraining hset p
  · rw [signalOn_of_ne_down hl]
    exact hset

theorem account_signalOff_up (h : Account s loose) (hu : (s.port p).isUp = true) : Account (s.signalOff p) loose := by
  cases hx : (s.port p).rx.inside with
  | none =>
    refine account_release h (released_signalOff_up_none hu hx) (rs := []) (fs := []) rfl rfl (fun b => ?_)
      (List.nil_subset _) nofun
    simp only [rxRefs_of_none hx, List.count_nil]
  | some o =>
    obtain ⟨b, l⟩ := o
    refine account_release h (released_signalOff_up hu hx) (rs := []) (fs := []) rfl rfl (fun c => ?_)
      (List.nil_subset _) nofun
    rw [rxRefs_of_inside hx, List.count_append]
    simp only [List.count_nil]
    omega

theorem account_signalOff_quarantine (h : Account s loose) {e : Instant} (hl : (s.port p).link = .quarantine e) :
    Account (s.signalOff p) loose := by
  cases hx : (s.port p).rx.inside with
  | none =>
    refine account_release h (released_signalOff_quarantine_none hl hx) (rs := []) (fs := flushedRefs (s.port p)) rfl rfl
      (fun b => ?_) (List.nil_subset _) nofun
    rw [rxRefs_of_none hx]
    rfl
  | some o =>
    obtain ⟨b, l⟩ := o
    refine account_release h (released_signalOff_quarantine hl hx) (rs := []) (fs := flushedRefs (s.port p)) rfl rfl
      (fun c => ?_) (List.nil_subset _) nofun
    rw [rxRefs_of_inside hx, List.count_nil]
    omega

theorem account_signalOff (h : Account s loose) (p : Port) : Account (s.signalOff p) loose := by
  have hset : Account (s.setPort p { s.port p with signal := false }) loose := account_setPort h rfl rfl (h.placed p)
  cases hl : (s.port p).link with
  | up run held => exact account_signalOff_up h (by unfold PortRec.isUp; rw [hl])
  | quarantine e => exact account_signalOff_quarantine h hl
  | disabled | down =>
    unfold State.signalOff
    rw [hl]
    exact hset
  | training n =>
    have hinside := not_inside h (p := p)
      (not_receives (by unfold PortRec.isUp; rw [hl]) (by unfold PortRec.isQuarantine; rw [hl]))
    unfold State.signalOff
    rw [hl]
    refine account_setPort hset rfl rfl ?_
    rw [State.port_setPort_same]
    exact fun hi => absurd hi (by rw [show _ = none from hinside]; exact Bool.false_ne_true)

theorem account_flush (h : Account s loose) (p : Port) : Account (s.flushPort p) loose :=
  account_move h (moved_flush s p) (rs := rxRefs (s.port p)) (fs := []) rfl rfl
    (fun b => by rw [List.count_nil]; omega) (List.Subset.refl _) (h.placed p)

theorem account_flushAll (h : Account s loose) : Account s.flushAll loose := by
  have hflush : ∀ (ps : List Port) (t : State), Account t loose → Account (ps.foldl State.flushPort t) loose := by
    intro ps
    induction ps with
    | nil => exact fun _ ht => ht
    | cons p ps ih =>
      intro t ht
      rw [List.foldl_cons]
      exact ih _ (account_flush ht p)
  exact account_settle (hflush _ s h) s

theorem account_warnedTest (h : Account s loose) (p : Port) : Account (s.warnedTest p) loose :=
  account_move h (moved_warnedTest s p) (rs := rxRefs (s.port p)) (fs := flushedRefs (s.port p)) rfl rfl
    (fun b => by rw [List.count_nil]; omega) (List.Subset.refl _) (h.placed p)

theorem account_leakStep (h : Account s loose) (p : Port) : Account (s.leakStep p) loose := by
  unfold State.leakStep
  refine account_warnedTest (account_setPort h ?_ ?_ ?_) p
  · rfl
  · rfl
  · exact h.placed p

theorem quarantined_flushedRefs (x : PortRec) (e : Instant) :
    flushedRefs (quarantined x e) = if x.isUp then [] else flushedRefs x := by
  unfold quarantined
  dsimp only
  split <;> rfl

theorem quarantined_rxRefs (x : PortRec) (e : Instant) : rxRefs (quarantined x e) = rxRefs x := by
  unfold rxRefs
  rw [quarantined_rx]

theorem account_enterQuarantine (h : Account s loose) (p : Port) : Account (s.enterQuarantine p) loose := by
  refine account_move h (moved_enterQuarantine s p) (quarantined_rxRefs _ _) (quarantined_flushedRefs _ _) (fun b => ?_)
    (List.Subset.refl _) fun _ => .inr rfl
  split <;> rw [List.count_nil] <;> omega

theorem account_quarantineTest (h : Account s loose) (p : Port) : Account (s.quarantineTest p) loose := by
  obtain ⟨-, -, ht⟩ | ⟨-, ht⟩ := quarantineTest_cases s p
  · rw [ht]
    exact account_enterQuarantine h p
  · rw [ht]
    exact h

/-- Selection moves entries from the queue to the transmitter or gives them back (R110). -/
theorem account_select (h : Account s loose) (p : Port) : Account (s.select p) loose := by
  cases hc : (s.port p).canSelect with
  | false =>
    rw [select_of_not_canSelect hc]
    exact h
  | true =>
    have hm := moved_select hc
    dsimp only at hm
    have hsplit := selectFrom_split (s.port p).cfg.ageLimit s.localTime (s.port p).queue
    have htx : (s.port p).tx = none := (canSelect_iff.1 hc).2.2.1
    generalize selectFrom (s.port p).cfg.ageLimit s.localTime (s.port p).queue = o at hm hsplit
    obtain ⟨aged, sent, rest⟩ := o
    refine account_move h hm (rs := rxRefs (s.port p)) (fs := rest.map (·.buf) ++ sent.toList.map (·.buf)) rfl ?_
      (fun b => ?_) (List.Subset.refl _) (h.placed p)
    · unfold flushedRefs
      cases sent <;> rfl
    · unfold flushedRefs
      rw [htx, ← hsplit]
      simp only [List.count_append, List.map_append, Option.toList_none, List.map_nil, List.count_nil]
      omega

theorem account_endTransmission (h : Account s loose) {x : Tx} (hx : (s.port p).tx = some x) :
    Account (s.endTransmission p x) loose := by
  unfold State.endTransmission
  refine account_select ?_ p
  refine account_move h (moved_then_dropRef? (moved_setPort s p _) (some x.buf)) (rs := rxRefs (s.port p))
    (fs := (s.port p).queue.map (·.buf)) rfl (List.append_nil _) (fun b => ?_) (List.Subset.refl _) (h.placed p)
  unfold flushedRefs
  rw [hx]
  simp only [List.count_append, Option.toList_some, List.map_cons, List.map_nil, List.count_nil]
  omega

end

end Sys2Proof.References
end

section
/-! Every step keeps the buffers' reference counts (R97, R100, R125, R145): the account through received symbols, the
Classifier, the takings and the resets. -/

namespace Sys2Proof.Holdings
open Sys2Proof.Machine Sys2Proof.Happenings Sys2Proof.Frames Sys2Proof.Course Sys2Proof.Keepers
  Sys2Proof.LinkPorts Sys2Proof.PortMoves
  Sys2Proof.Receptions Sys2Proof.PortTimers Sys2Proof.FrameEnds Sys2Proof.Forwarding Sys2Proof.References

section
variable {s t u : State} {p : Port} {x : PortRec} {b : BufId} {l : List Byte} {loose : List BufId}

/-! ### The reception's buffer -/

/-- The buffer that the operation holds goes to the port's reception (R98). -/
theorem account_begin (h : Account s (b :: loose)) (hx : (s.port p).rx.inside = none)
    (hp : PortRec.receives (s.port p)) (l : List Byte) :
    Account (s.setPort p { s.port p with rx := .frame (some b) l }) loose := by
  refine account_moved h (moved_setPort s p _) (fun c => ?_) (fun c hc => ?_) fun _ => hp
  · rw [rxRefs_of_none hx]
    show [b].count c + (flushedRefs (s.port p)).count c + 0 + loose.count c = _
    rw [List.count_cons, List.count_cons, List.count_nil]
    omega
  · obtain hc | hc := List.mem_append.1 hc
    · exact List.mem_append_right _ (List.mem_cons.2 (.inl (List.mem_singleton.1 hc)))
    · exact List.mem_append_right _ (List.mem_cons_of_mem _ hc)

/-- The reception's buffer goes to the operation: the frame has ended (R125). -/
theorem account_end (h : Account s loose) (hx : rxRefs (s.port p) = [b]) (hrx : x.rx = .idle)
    (hflushed : flushedRefs x = flushedRefs (s.port p)) : Account (s.setPort p x) (b :: loose) := by
  have hrefs : rxRefs x = [] := by unfold rxRefs; rw [hrx]
  refine account_moved h (moved_setPort s p x) (fun c => ?_) (fun c hc => ?_) fun hi => ?_
  · rw [hrefs, hflushed, hx]
    simp only [List.count_cons, List.count_nil]
    omega
  · rw [hrefs] at hc
    rw [hx]
    simpa using hc
  · rw [hrx] at hi
    cases hi

theorem account_beginFrame (h : Account s loose) (hp : PortRec.receives (s.port p))
    (hx : (s.port p).rx.inside = none) : Account (s.beginFrame p) loose := by
  have hempty : Account (s.setPort p { s.port p with rx := .frame none [] }) loose :=
    account_setPort h (rxRefs_of_none hx).symm rfl fun _ => hp
  unfold State.beginFrame
  split
  · split
    · next b t ha =>
      have hport := (alloc_allocated (by decide) ha).ports p
      have ht := account_alloc (by decide) h ha
      exact account_begin ht (by rw [hport]; exact hx) (by rw [hport]; exact hp) []
    · exact hempty
  · exact hempty

/-! ### Receive errors (R127) -/

theorem scored_refs {x : PortRec} (hu : x.isUp = true) (u : NoticeUnit) (p : Port) (w : Nat) (now time : Instant)
    (b : BufId) :
    (flushedRefs (scored x u p w now time).1).count b + (scored x u p w now time).2.2.count b
      = (flushedRefs x).count b := by
  have hup : (risen x w (now + BitVec.ofNat 32 (x.cfg.leakInterval * 1000))).isUp = true := hu
  unfold scored
  dsimp only
  split
  · rw [quarantined_flushedRefs, if_pos hup, List.count_nil, Nat.zero_add]
  · rfl

theorem account_rxError (h : Account s loose) (hp : PortRec.receives (s.port p)) {o : Option BufId}
    (hx : (s.port p).rx.inside = some (o, l)) (e : RxError) {rx : Reception} (hrx : rx.inside = none) :
    Account (s.rxError p o e rx) loose := by
  have hnone : ∀ y : PortRec, y.rx = rx → rxRefs y = [] ∧ (y.rx.inside.isSome = true → PortRec.receives y) :=
    fun y hy => ⟨rxRefs_of_none (by rw [hy, hrx]), fun hi => by rw [hy, hrx] at hi; cases hi⟩
  obtain hu | hq := hp
  · obtain ⟨hrefs, hplaced⟩ := hnone _ (scored_rx (errorCounted (s.port p) o e rx) s.notices p (errorWeight e)
      s.localTime s.cellTime)
    refine account_release h (rxError_up hu o e rx) hrefs rfl (fun b => ?_) (List.nil_subset _) hplaced
    have hscored := scored_refs (x := errorCounted (s.port p) o e rx) hu s.notices p (errorWeight e) s.localTime
      s.cellTime b
    have hflushed : flushedRefs (errorCounted (s.port p) o e rx) = flushedRefs (s.port p) := rfl
    rw [hflushed] at hscored
    rw [rxRefs_of_inside hx, List.count_append, List.count_nil]
    omega
  · obtain ⟨hrefs, hplaced⟩ := hnone (errorCounted (s.port p) o e rx) rfl
    refine account_release h (rxError_quarantine hq o e rx) hrefs (fs := flushedRefs (s.port p)) rfl (fun b => ?_)
      (List.nil_subset _) hplaced
    rw [rxRefs_of_inside hx, List.count_nil]
    omega

/-! ### The Classifier (R43 to R58) -/

theorem account_shown (h : Account s loose) (hu : Shown s u) : Account u loose := by
  have hframe := shown_frame hu
  exact account_same h (by rw [hframe]) (by rw [hframe]) (by rw [hframe])

theorem account_dropFrame {f : FrameEnd} (h : Account s (f.buf :: loose)) (count : PortCounters → PortCounters) :
    Account (s.dropFrame f count) loose :=
  account_dropRef (account_setPort h rfl rfl (h.placed f.port))

/-- A request captured: the operation's hold on its buffer becomes the request's (R45, R145). -/
theorem account_capture (h : Account s (b :: loose)) (p : Port) :
    Account { s with agent := { s.agent with queue := s.agent.queue ++ [{ buf := b, port := p }] } } loose := by
  refine ⟨fun c => ?_, h.wf, h.receptions, fun r hr => ?_, fun c hc => h.single c (List.mem_cons_of_mem _ hc), h.placed⟩
  · have hrefs := h.refs c
    rw [holders_count] at hrefs ⊢
    simp only [List.map_append, List.map_cons, List.map_nil, List.count_append, List.count_cons, List.count_nil]
      at hrefs ⊢
    show (s.buf c).refs = ∑ q, (s.port q).held.count c + _ + _
    omega
  · obtain hr | hr := List.mem_append.1 hr
    · exact h.requests r hr
    · rw [List.mem_singleton.1 hr]
      exact h.single b List.mem_cons_self

theorem offerTo_held (e : QueueEntry) (x : PortRec) (c : BufId) :
    (offerTo e x).held.count c = x.held.count c + if x.canAccept then [e.buf].count c else 0 := by
  have hrx : rxRefs (offerTo e x) = rxRefs x := by
    unfold offerTo
    split <;> rfl
  rw [held_count, held_count, hrx]
  unfold offerTo
  split
  · have hcount := ((insertEntry_perm e x.queue).map (·.buf)).count_eq c
    unfold flushedRefs
    simp only [List.count_append, List.map_cons, List.count_cons, List.count_nil] at hcount ⊢
    omega
  · rfl

/-- Each accepted offer is one more holder of the buffer (R56). -/
theorem offers_holders (s : State) (e : QueueEntry) {qs : List Port} (hq : qs.Nodup) (c : BufId) :
    (offers s e qs).holders.count c
      = s.holders.count c + qs.countP (fun q => (s.port q).canAccept) * [e.buf].count c := by
  induction qs generalizing s with
  | nil => simp
  | cons q qs ih =>
    obtain ⟨hnot, hqs⟩ := List.nodup_cons.1 hq
    have hrest : qs.countP (fun r => ((s.setPort q (offerTo e (s.port q))).port r).canAccept)
        = qs.countP (fun r => (s.port r).canAccept) := by
      refine List.countP_congr fun r hr => ?_
      have hne : r ≠ q := fun he => hnot (he ▸ hr)
      rw [State.port_setPort_ne _ _ hne]
    have hstep := holders_change (s := s) (t := s.setPort q (offerTo e (s.port q))) (p := q)
      (fun r hr => by rw [State.port_setPort_ne _ _ hr]) rfl c
    rw [State.port_setPort_same, offerTo_held] at hstep
    show (offers (s.offerCopy e q) e qs).holders.count c = _
    rw [offerCopy_eq, ih _ hqs, hrest, List.countP_cons, Nat.add_mul]
    split at hstep
    · next ha => rw [if_pos ha]; omega
    · next ha => rw [if_neg ha]; omega

theorem offers_link (s : State) (e : QueueEntry) {qs : List Port} (hq : qs.Nodup) (q : Port) :
    ((offers s e qs).port q).rx = (s.port q).rx ∧ ((offers s e qs).port q).link = (s.port q).link := by
  rw [offers_port s e hq]
  unfold offerTo
  split
  · split <;> exact ⟨rfl, rfl⟩
  · exact ⟨rfl, rfl⟩

theorem offers_agent (s : State) (e : QueueEntry) (qs : List Port) : (offers s e qs).agent = s.agent := by
  have h : s.sameButLinks (offers s e qs) := offerCopies_sameButLinks s e qs
  rw [h]

theorem rxRefs_congr {x y : PortRec} (h : x.rx = y.rx) : rxRefs x = rxRefs y := by
  unfold rxRefs
  rw [h]

theorem receives_congr {x y : PortRec} (h : x.link = y.link) : PortRec.receives x ↔ PortRec.receives y := by
  unfold PortRec.receives PortRec.isUp PortRec.isQuarantine
  rw [h]

/-- The operation's buffer goes to `n` new holders, with as many references (R56). -/
theorem account_share {n : Nat} (h : Account s (b :: loose)) (hothers : ∀ c, c ≠ b → t.buf c = s.buf c)
    (hrefs : (t.buf b).refs = n) (hfree : (t.buf b).refs = 0 → t.buf b = freeBuffer)
    (hports : ∀ q, (t.port q).rx = (s.port q).rx ∧ (t.port q).link = (s.port q).link)
    (hholders : ∀ c, t.holders.count c = s.holders.count c + n * [b].count c)
    (hqueue : t.agent.queue = s.agent.queue) : Account t loose := by
  have hone := h.single b List.mem_cons_self
  have halone : s.holders.count b = 0 ∧ loose.count b = 0 := by
    have := h.refs b
    rw [hone, List.count_cons_self] at this
    omega
  have hkeep : ∀ c, 1 ≤ s.holders.count c + loose.count c → t.buf c = s.buf c := by
    refine fun c hc => hothers c fun hcb => ?_
    rw [hcb] at hc
    omega
  refine ⟨fun c => ?_, fun c hc => ?_, fun q c hc => ?_, fun r hr => ?_, fun c hc => ?_, fun q hq => ?_⟩
  · rw [hholders]
    by_cases hcb : c = b
    · subst hcb
      rw [hrefs, List.count_singleton_self, halone.1, halone.2]
      omega
    · have := h.refs c
      rw [List.count_cons_of_ne (Ne.symm hcb)] at this
      rw [hothers c hcb, List.count_eq_zero (l := [b]).2 (by simpa using hcb), this]
      rfl
  · by_cases hcb : c = b
    · rw [hcb] at hc ⊢
      exact hfree hc
    · have hbuf : t.pool.bufs.get c = s.buf c := hothers c hcb
      rw [hbuf] at hc ⊢
      exact h.wf c hc
  · rw [rxRefs_congr (hports q).1] at hc
    rw [hkeep c (Nat.le_add_right_of_le (holders_of_rx hc))]
    exact h.receptions q c hc
  · rw [hqueue] at hr
    rw [hkeep _ (Nat.le_add_right_of_le (holders_of_request hr))]
    exact h.requests r hr
  · rw [hkeep c (Nat.le_add_left_of_le (List.count_pos_iff.2 hc))]
    exact h.single c (List.mem_cons_of_mem _ hc)
  · rw [(hports q).1] at hq
    exact (receives_congr (hports q).2).2 (h.placed q hq)

theorem account_sendCopies {f : FrameEnd} (h : Account s (f.buf :: loose)) (set : PortSet) (prio : Prio) (tag : Tag) :
    Account (s.sendCopies f set prio tag) loose := by
  by_cases hout : s.egressSet f.port set = []
  · rw [sendCopies_nowhere hout]
    exact account_dropFrame h _
  · have hnodup : (s.egressSet f.port set).Nodup := (List.nodup_finRange 4).filter _
    rw [sendCopies_somewhere hout]
    generalize s.egressSet f.port set = qs at hnodup
    have hone := h.single f.buf List.mem_cons_self
    have hsent : (sentBuffer (s.buf f.buf) f (qs.countP fun q => (s.port q).canAccept) prio tag).refs
          = (qs.countP fun q => (s.port q).canAccept)
        ∧ ((sentBuffer (s.buf f.buf) f (qs.countP fun q => (s.port q).canAccept) prio tag).refs = 0 →
          sentBuffer (s.buf f.buf) f (qs.countP fun q => (s.port q).canAccept) prio tag = freeBuffer) := by
      have hdrop : dropBuffer (s.buf f.buf) = freeBuffer := if_pos (by rw [hone])
      unfold sentBuffer
      split
      · next hn => exact ⟨by rw [hn, hdrop]; rfl, fun _ => hdrop⟩
      · next hn => exact ⟨rfl, fun h => absurd h hn⟩
    refine account_share h (fun c hc => ?_) ?_ ?_ (fun q => ?_) (fun c => offers_holders s _ hnodup c) ?_
    · rw [State.buf_setBuf, if_neg hc]
      unfold State.buf
      rw [offers_pool]
    · rw [State.buf_setBuf, if_pos rfl]
      exact hsent.1
    · rw [State.buf_setBuf, if_pos rfl]
      exact hsent.2
    · exact offers_link s _ hnodup q
    · show (offers s _ qs).agent.queue = _
      rw [offers_agent]

theorem account_classified {f : FrameEnd} (h : Account s (f.buf :: loose)) (hc : Classified s f t) :
    Account t loose := by
  cases hc with
  | captured => exact account_capture h f.port
  | lost => exact account_dropRef (account_same h rfl rfl rfl)
  | dropped hu count => exact account_dropFrame (account_shown h hu) count
  | sent hu set prio tag => exact account_sendCopies (account_shown h hu) set prio tag

end

/-! ### Received symbols -/

theorem account_stroke {s t : State} {p : Port} {loose : List BufId} (h : Account s loose) (hs : Stroke p s t) :
    Account t loose := by
  have houtside : ∀ {n}, (s.port p).link = .training n → (s.port p).rx.inside = none := fun hl =>
    not_inside h (not_receives (by unfold PortRec.isUp; rw [hl]) (by unfold PortRec.isQuarantine; rw [hl]))
  cases hs with
  | train m hl =>
    refine account_setPort h rfl rfl fun hi => ?_
    rw [houtside hl] at hi
    cases hi
  | goUp hl =>
    have hset : ∀ x : PortRec, x.rx = .idle → flushedRefs x = flushedRefs (s.port p) → Account (s.setPort p x) loose :=
      fun x hx hf => account_setPort h (by rw [rxRefs_of_none (houtside hl), rxRefs_of_none (by rw [hx]; rfl)]) hf
        fun hi => by rw [hx] at hi; cases hi
    unfold State.enterUp
    refine account_same (hset _ ?_ ?_) rfl rfl rfl
    · rfl
    · rfl
  | relink run held hu => exact account_setPort h rfl rfl fun _ => .inl rfl
  | loseLock => exact account_settle (account_loseLock h p) s
  | delimiter hx => exact account_setPort h (by exact (rxRefs_of_none hx).symm) (by rfl) nofun
  | beginFrame hp hx => exact account_beginFrame h hp hx
  | error e hp hx hrx => exact account_rxError h hp hx e hrx
  | noBufferByte d hp hx => exact account_setPort h (by exact (rxRefs_of_inside hx).symm) (by rfl) fun _ => hp
  | @byte b l d hp hx =>
    have hrefs : rxRefs (s.port p) = [b] := by unfold rxRefs; rw [hx]
    have hone : (s.buf b).refs = 1 := h.receptions p b (by rw [hrefs]; exact List.mem_singleton_self b)
    exact account_write (account_setPort (x := { s.port p with rx := .frame (some b) (l ++ [d]) }) h hrefs.symm rfl
      fun _ => hp) (hone.trans_ne Nat.one_ne_zero) _
  | @discarded b l hp hx =>
    refine account_settle (account_move h (moved_then_dropRef? (moved_setPort s p _) b) (rs := [])
      (fs := flushedRefs (s.port p)) (by rfl) (by rfl) (fun c => ?_) (List.nil_subset _) (by exact nofun)) s
    rw [rxRefs_of_inside hx, List.nil_append, List.count_nil]
    omega
  | @classified b l t hu hx ht =>
    have hrefs : rxRefs (s.port p) = [b] := by unfold rxRefs; rw [hx]
    exact account_settle (account_classified (account_end h hrefs (by rfl) (by rfl)) ht) s
  | @classifiedAnew b l u t hu hx ha ht =>
    have hport := (alloc_allocated (by decide) ha).ports p
    have hrefs : rxRefs (u.port p) = [] := by rw [hport]; unfold rxRefs; rw [hx]
    have hu := account_writeLoose (account_alloc (by decide) h ha) List.mem_cons_self l
    exact account_settle (account_classified (account_setPort hu (by exact hrefs.symm) (by rfl) (by exact nofun)) ht) _

theorem account_receive {s : State} {loose : List BufId} (h : Account s loose) (p : Port) (sym : Symbol) :
    Account (s.receive p sym) loose :=
  kept_by_receive (P := fun u => Account u loose) p (fun _ _ hs hu => account_stroke hu hs) h sym

section
variable {s t u : State} {r : Taken} {loose : List BufId}

/-! ### Replies and notices (R154, R191) -/

theorem account_sendReply (h : Account s (r.buf :: loose)) (payload : List Byte) :
    Account (s.sendReply r payload) loose := by
  unfold State.sendReply
  split
  · exact account_settle (account_dropRef (account_same (t := s.countReplyDropped) h rfl rfl rfl)) s
  · next b t ha =>
    have ht := account_writeLoose (account_alloc (by decide) h ha) List.mem_cons_self (replyFrame r payload)
    refine account_settle (account_dropRef ?_) t
    split
    · exact account_enqueue (e := { buf := b, prio := r.prio, time := _, origin := .reply }) ht r.port
    · exact account_dropRef (account_same ht rfl rfl rfl)

theorem account_build (h : Account s loose) : Account s.build loose := by
  unfold State.build
  split
  · split
    · next b t ha =>
      have ht := account_writeLoose (account_alloc (by decide) h ha) List.mem_cons_self
        (noticeFrame t.notices.cfg (t.notices.queue.take Config.recordsPerFrame))
      have hjoined := account_enqueue ht (e :=
        { buf := b, prio := t.notices.cfg.prio, time := t.localTime, origin := .notice }) t.notices.cfg.dest
      exact account_same hjoined rfl rfl rfl
    · exact h
  · exact h

/-! ### What commands do (R146, R178, R184, R185) -/

/-- The request at the head leaves the queue: the taking holds its buffer (R146). -/
theorem account_take (h : Account s loose) (hr : s.headRequest = some r) {a : Agent}
    (ha : a.queue = s.agent.queue.tail) : Account { s with agent := a } (r.buf :: loose) := by
  obtain ⟨q, qs, hqueue, hbuf, -, -⟩ := headRequest_queue hr
  rw [hqueue, List.tail_cons] at ha
  refine ⟨fun c => ?_, h.wf, h.receptions, fun x hx => ?_, fun c hc => ?_, h.placed⟩
  · have hrefs := h.refs c
    rw [holders_count] at hrefs ⊢
    rw [hqueue, List.map_cons, List.count_cons] at hrefs
    show (s.buf c).refs = (∑ p, (s.port p).held.count c) + (a.queue.map (·.buf)).count c + _
    rw [ha, List.count_cons, hbuf]
    omega
  · have hx : x ∈ qs := ha ▸ hx
    exact h.requests x (by rw [hqueue]; exact List.mem_cons_of_mem _ hx)
  · obtain rfl | hc := List.mem_cons.1 hc
    · rw [hbuf]
      exact h.requests q (by rw [hqueue]; exact List.mem_cons_self)
    · exact h.single c hc

/-- A change of the enable setting gives back what the port holds no more (R114, R124, R129). -/
theorem enableApplied_refs (x : PortRec) (old : Bool) (u : NoticeUnit) (p : Port) (now time : Instant) :
    (∀ b, (rxRefs (enableApplied x old u p now time).1).count b
        + (flushedRefs (enableApplied x old u p now time).1).count b + (enableApplied x old u p now time).2.2.count b
          = (rxRefs x).count b + (flushedRefs x).count b)
      ∧ rxRefs (enableApplied x old u p now time).1 ⊆ rxRefs x
      ∧ ((x.rx.inside.isSome = true → PortRec.receives x) →
        (enableApplied x old u p now time).1.rx.inside.isSome = true →
          PortRec.receives (enableApplied x old u p now time).1) := by
  have hsame : ∀ b, (rxRefs x).count b + (flushedRefs x).count b + ([] : List BufId).count b
      = (rxRefs x).count b + (flushedRefs x).count b := fun b => by rw [List.count_nil, Nat.add_zero]
  have hdropped : ∀ b, ([] : List BufId).count b + (flushedRefs x).count b + (rxRefs x).count b
      = (rxRefs x).count b + (flushedRefs x).count b := fun b => by rw [List.count_nil]; omega
  have hflushed : ∀ b, ([] : List BufId).count b + ([] : List BufId).count b + (flushedRefs x ++ rxRefs x).count b
      = (rxRefs x).count b + (flushedRefs x).count b := fun b => by rw [List.count_nil, List.count_append]; omega
  unfold enableApplied
  by_cases hon : (x.cfg.enable && !old) = true
  · rw [if_pos hon]
    refine ⟨hsame, List.Subset.refl _, fun hx hi => ?_⟩
    have hp := hx hi
    unfold PortRec.receives PortRec.isUp PortRec.isQuarantine at hp ⊢
    dsimp only
    cases hl : x.link with
    | disabled => rw [hl] at hp; simp at hp
    | _ => rw [hl] at hp; exact hp
  · rw [if_neg hon]
    by_cases hoff : (!x.cfg.enable && old) = true
    · rw [if_pos hoff]
      cases x.link with
      | up run held => exact ⟨hflushed, List.nil_subset _, fun _ => nofun⟩
      | _ => exact ⟨hdropped, List.nil_subset _, fun _ => nofun⟩
    · rw [if_neg hoff]
      exact ⟨hsame, List.Subset.refl _, id⟩

theorem account_applyEnable (h : Account s loose) (p : Port) (old : Bool) :
    Account (s.applyEnable p old (s.port p).cfg.enable) loose := by
  obtain ⟨hheld, hsub, hplaced⟩ := enableApplied_refs (s.port p) old s.notices p s.localTime s.cellTime
  exact account_move h (moved_applyEnable s p old) rfl rfl hheld hsub (hplaced (h.placed p))

theorem account_applyLeak (h : Account s loose) (p : Port) (old : PortConfig) : Account (s.applyLeak p old) loose := by
  unfold State.applyLeak
  dsimp only
  split
  · exact account_setPort h (by rfl) (by rfl) (h.placed p)
  · exact h

theorem account_applyConfig (h : Account s loose) (p : Port) (c : PortConfig) : Account (s.applyConfig p c) loose := by
  have hset : Account (s.setPort p { s.port p with cfg := c }) loose := account_setPort h rfl rfl (h.placed p)
  have henable := account_applyEnable hset p (s.port p).cfg.enable
  rw [State.port_setPort_same] at henable
  unfold State.applyConfig
  exact account_settle (account_quarantineTest (account_warnedTest (account_applyLeak henable p _) p) p) s

/-- A FULL reset leaves one reference, the taking's own (R117, R185). -/
theorem account_fullReset {b : BufId} (h : Account s [b]) : Account (s.fullReset b) [b] := by
  have hport : ∀ p, (s.fullReset b).port p = resetPort s.straps s.pool.hold.isHolding p (s.port p) :=
    fun p => fullReset_port s b p
  have hrx : ∀ p, rxRefs ((s.fullReset b).port p) = [] := by
    intro p
    rw [hport]
    unfold rxRefs resetPort resetReception
    dsimp only
    cases (s.port p).link <;> cases (s.port p).rx with
    | frame o l => cases o <;> rfl
    | _ => rfl
  have hheld : ∀ p, ((s.fullReset b).port p).held = [] := by
    intro p
    have hnone : ((s.fullReset b).port p).held = rxRefs ((s.fullReset b).port p) ++ [] ++ [] := by
      rw [hport]
      rfl
    rw [hnone, hrx]
    rfl
  have hholders : ∀ c, (s.fullReset b).holders.count c = 0 := by
    intro c
    rw [holders_count]
    simp only [hheld, List.count_nil, Finset.sum_const_zero]
    rfl
  have hbuf : ∀ c, (s.fullReset b).buf c = if c = b then s.buf b else freeBuffer := by
    intro c
    refine (get_ofFn _ c).trans ?_
    split
    · next hc => rw [hc]
    · rfl
  have hone := h.single b (List.mem_singleton_self b)
  refine ⟨fun c => ?_, fun c hc => ?_, fun p c hc => ?_, nofun, fun c hc => ?_, fun p hp => ?_⟩
  · rw [hholders, hbuf]
    split
    · next hc => rw [hc, hone, List.count_singleton_self]
    · next hc => rw [List.count_eq_zero (l := [b]).2 (by simpa using hc)]; rfl
  · have hb : (s.fullReset b).pool.bufs.get c = _ := hbuf c
    rw [hb] at hc ⊢
    split at hc
    · exact absurd (hone.symm.trans hc) Nat.one_ne_zero
    · next hne => rw [if_neg hne]
  · rw [hrx] at hc
    cases hc
  · rw [List.mem_singleton.1 hc, hbuf, if_pos rfl, hone]
  · have hp' : (resetReception (s.port p)).inside.isSome = true := by rw [hport] at hp; exact hp
    rw [hport]
    have hreceives : (s.port p).isUp = true := by
      unfold resetReception at hp'
      cases hl : (s.port p).link with
      | quarantine e => rw [hl] at hp'; cases hp'
      | up run held => unfold PortRec.isUp; rw [hl]
      | _ =>
        have hin := not_inside h (not_receives (x := s.port p) (by unfold PortRec.isUp; rw [hl])
          (by unfold PortRec.isQuarantine; rw [hl]))
        cases hx : (s.port p).rx with
        | frame o l => rw [hx] at hin; cases hin
        | stripped l => rw [hx] at hin; cases hin
        | _ => rw [hl, hx] at hp'; cases hp'
    obtain ⟨run, held, hl⟩ := isUp_link hreceives
    left
    show (match resetLink (s.port p) with | .up .. => true | _ => false) = true
    unfold resetLink
    rw [hl]

/-- What a command does keeps the account of a taking that holds its request's buffer. -/
theorem account_carried {row : Instr} (h : Account s [r.buf]) (hc : Carried r s row t) : Account t [r.buf] := by
  cases hc with
  | same => exact h
  | clearPort p => exact account_setPort h rfl rfl (h.placed p)
  | clearPool => exact account_same h rfl rfl rfl
  | clearAgent => exact account_same h rfl rfl rfl
  | clearHits first count =>
    exact account_same h (s.clearHits_ports first count) (by rw [s.clearHits_pool first count])
      (by rw [s.clearHits_agent first count])
  | adjust step =>
    have hframe := adjustOffset_frame s step
    have hqueue : (s.adjustOffset step).agent.queue = s.agent.queue := by
      unfold State.adjustOffset
      dsimp only
      split
      · exact (tableKeys_swap _).2
      · rfl
    exact account_same h (by rw [hframe]) (by rw [hframe]) hqueue
  | lease => exact account_same h rfl rfl rfl
  | write b =>
    have hframe := renew_frame (s.setShadow b) r.key
    exact account_same h (by rw [hframe]; rfl) (by rw [hframe]; rfl) (by rw [hframe]; rfl)
  | renew =>
    have hframe := renew_frame s r.key
    exact account_same h (by rw [hframe]) (by rw [hframe]) (by rw [hframe])
  | commit =>
    have hframe := swap_frame s
    exact account_same h (by rw [hframe]) (by rw [hframe]) (tableKeys_swap s).2
  | schedule => exact account_same h rfl rfl rfl
  | abandon =>
    have hframe := startMirror_frame s
    exact account_same h (by rw [hframe]) (by rw [hframe]) (tableKeys_startMirror s).2
  | clearFlow => exact account_same h rfl rfl rfl
  | armFlow => exact account_same h rfl rfl rfl
  | zeroFlow => exact account_same h rfl rfl rfl
  | configure p => exact account_applyConfig h p _
  | release p => exact account_settle (account_endQuarantine h p) s
  | setNotices => exact account_same h rfl rfl rfl
  | traffic =>
    exact kept_by_trafficReset (P := fun u => Account u [r.buf]) (fun _ _ hu => account_same hu rfl rfl rfl)
      (account_flushAll h)
  | full => exact account_fullReset h

end

/-! ### Every step -/

/-- A state whose ports, buffers and requests are those after a reset. -/
theorem account_cleared {s : State} (hport : ∀ p, (s.port p).held = []) (hrx : ∀ p, (s.port p).rx = .idle)
    (hbuf : ∀ b, s.buf b = freeBuffer) (hqueue : s.agent.queue = []) : Account s [] := by
  refine ⟨fun b => ?_, fun b _ => hbuf b, fun p b hb => ?_, fun r hr => ?_, nofun, fun p hp => ?_⟩
  · rw [hbuf, holders_count, hqueue]
    simp only [hport, List.count_nil, Finset.sum_const_zero, List.map_nil]
    rfl
  · rw [rxRefs_of_none (by rw [hrx]; rfl)] at hb
    cases hb
  · rw [hqueue] at hr
    cases hr
  · rw [hrx] at hp
    cases hp

theorem account_powerOn (st : Straps) (lanes : PortSet) : Account (State.powerOn st lanes) [] :=
  account_cleared (fun p => by rw [powerOn_port]; rfl) (fun p => by rw [powerOn_port]; rfl) (powerOn_buf st lanes) rfl

/-- What changes no port's holdings, no buffer and no request keeps the account. -/
theorem account_alike {s t : State} {loose : List BufId} (h : Account s loose)
    (hports : ∀ q, rxRefs (t.port q) = rxRefs (s.port q) ∧ flushedRefs (t.port q) = flushedRefs (s.port q))
    (hplaced : ∀ q, (t.port q).rx.inside.isSome = true → PortRec.receives (t.port q))
    (hbufs : t.pool = s.pool) (hqueue : t.agent = s.agent) : Account t loose := by
  have hbuf : ∀ b, t.buf b = s.buf b := fun b => by unfold State.buf; rw [hbufs]
  refine ⟨fun b => ?_, fun b hb => ?_, fun q b hb => ?_, fun r hr => ?_, fun b hb => ?_, hplaced⟩
  · have hheld : ∀ q, (t.port q).held.count b = (s.port q).held.count b := fun q => by
      rw [held_count, held_count, (hports q).1, (hports q).2]
    rw [hbuf, h.refs, holders_count, holders_count, hqueue]
    simp only [hheld]
  · rw [hbufs] at hb ⊢
    exact h.wf b hb
  · rw [hbuf]
    exact h.receptions q b ((hports q).1 ▸ hb)
  · rw [hbuf]
    exact h.requests r (hqueue ▸ hr)
  · rw [hbuf]
    exact h.single b hb

theorem symbolTime_refs (x : PortRec) :
    rxRefs x.symbolTime = rxRefs x ∧ flushedRefs x.symbolTime = flushedRefs x := by
  have hlater : ∀ y : PortRec, y.rx = x.rx.later → rxRefs y = rxRefs x := fun y hy => by
    unfold rxRefs
    rw [hy]
    cases x.rx <;> rfl
  unfold PortRec.symbolTime
  split
  · split
    · exact ⟨hlater _ rfl, rfl⟩
    · refine ⟨hlater _ rfl, ?_⟩
      unfold flushedRefs
      cases x.tx <;> rfl
  · exact ⟨rfl, rfl⟩

theorem symbolTime_receives (x : PortRec) :
    x.symbolTime.rx.inside.isSome = x.rx.inside.isSome ∧ x.symbolTime.link = x.link := by
  have hlater : x.rx.later.inside.isSome = x.rx.inside.isSome := by cases x.rx <;> rfl
  unfold PortRec.symbolTime
  split
  · split
    · exact ⟨hlater, rfl⟩
    · exact ⟨hlater, rfl⟩
  · exact ⟨rfl, rfl⟩

theorem account_tick {s : State} (h : Account s []) : Account s.tick [] := by
  cases hr : s.running with
  | false => rwa [tick_of_not_running hr]
  | true =>
    refine account_alike h (fun q => ?_) (fun q hq => ?_) (by rw [tick_eq hr]) (by rw [tick_eq hr])
    · rw [tick_port hr]
      exact symbolTime_refs (s.port q)
    · rw [tick_port hr] at hq ⊢
      obtain ⟨hinside, hlink⟩ := symbolTime_receives (s.port q)
      rw [hinside] at hq
      exact (receives_congr hlink).2 (h.placed q hq)

theorem account_happens {c : Instr} {s t : State} (hc : Happens s c t) (h : Account s []) : Account t [] := by
  cases hc with
  | nothing => exact h
  | powerOn st lanes => exact account_same (account_powerOn st lanes) rfl rfl rfl
  | resetHeld => exact account_same (account_powerOn s.straps 0) rfl rfl rfl
  | received p sym => exact account_receive h p sym
  | signalOn p => exact account_signalOn h p
  | signalOff p => exact account_signalOff h p
  | holdExpiry p hr hd =>
    refine account_setPort h rfl rfl fun hi => ?_
    have hp := h.placed p hi
    unfold PortRec.receives PortRec.isUp PortRec.isQuarantine clearHold at *
    dsimp only
    cases hl : (s.port p).link with
    | up run held => simp
    | _ => rw [hl] at hp; exact hp
  | leak p => exact account_leakStep h p
  | quarantineEnd p => exact account_settle (account_endQuarantine h p) s
  | @holdRepeat d =>
    refine account_calm (t := ({ s with
      pool := { s.pool with hold := .holding (d + Config.holdRepeatSpacing) } } : State).sendToUp .hold) h (fun q => ?_)
      (fun _ => rfl) rfl
    rw [State.port_sendToUp]
    split
    · exact ⟨_, rfl⟩
    · exact ⟨(s.port q).ctl, rfl⟩
  | selection p => exact account_settle (account_select h p) s
  | transmissionEnd p hr ht => exact account_settle (account_endTransmission h ht) s
  | deadlineExpiry i =>
    unfold State.expireFlow
    dsimp only
    split <;> exact account_same h rfl rfl rfl
  | fillUp i => exact account_same h rfl rfl rfl
  | @leaseExpiry k =>
    have hframe := startMirror_frame (s.raise .leaseExpired (byteOf k.port) k.handle)
    exact account_same h (by rw [hframe]; rfl) (by rw [hframe]; rfl) (tableKeys_startMirror _).2
  | activation =>
    have hframe := swap_frame s
    exact account_same h (by rw [hframe]) (by rw [hframe]) (tableKeys_swap s).2
  | @mirrorStep k e =>
    have hframe := mirrorCopy_frame s k e
    exact account_same h (by rw [hframe]) (by rw [hframe]) (by rw [hframe])
  | agentReady => exact account_same h rfl rfl rfl
  | entryExpiry => exact account_same h rfl rfl rfl
  | malformed hd hh =>
    rw [takeMalformed_eq]
    exact account_settle (account_dropRef (account_take h hh (a := malformedAgent s) rfl)) s
  | @replay r hd hh =>
    cases he : s.requester r.key with
    | none => rwa [takeReplay_none he]
    | some e =>
      rw [takeReplay_eq he]
      exact account_sendReply (account_take h hh (a := replayAgent s r) rfl) e.reply
  | @carriedOut _ r cmd hd hh hcarried =>
    rw [carryOut_eq]
    have hserved : Account (s.served r) [r.buf] := by
      rw [served_eq]
      exact account_take h hh rfl
    exact account_sendReply (account_same (account_carried hserved hcarried) (by rfl) (by rfl) (by rfl)) _
  | build => exact account_build h

theorem refsInv_of_step : ∀ s t : State, s.refsInv → step s = .next t → t.refsInv := by
  intro s t hs h
  rw [refsInv_iff] at hs ⊢
  exact kept_by_step (P := fun u => Account u []) (fun _ _ hu => account_same hu rfl rfl rfl)
    (fun _ _ _ hc hu => account_happens hc hu) (fun _ hu => account_tick hu) s t hs h

end Sys2Proof.Holdings
end

section
/-! Every step keeps the notice queue's bound, and the waiting frame the one NOTICE frame on an egress queue (R188, R191,
R192). -/

namespace Sys2Proof.Waiting
open Sys2Proof.Machine Sys2Proof.Happenings Sys2Proof.Frames Sys2Proof.Course Sys2Proof.Keepers Sys2Proof.LinkPorts
  Sys2Proof.PortMoves Sys2Proof.Receptions Sys2Proof.PortTimers Sys2Proof.FrameEnds Sys2Proof.Forwarding
  Sys2Proof.Holdings

/-! ### The invariant, port by port -/

/-- The number of NOTICE frames in a queue. -/
def noticesIn (q : List QueueEntry) : Nat := q.countP fun e => e.origin == .notice

/-- The notice queue is bounded, and the waiting frame alone is on an egress queue (R188, R191, R192). -/
structure Noticed (s : State) : Prop where
  bound : s.notices.queue.length ≤ 32
  frames : ∀ p, noticesIn (s.port p).queue = if s.notices.waiting = some p then 1 else 0

theorem noticeFrames_eq (s : State) :
    s.noticeFrames = (List.finRange 4).flatMap fun p => List.replicate (noticesIn (s.port p).queue) p := by
  unfold State.noticeFrames noticesIn
  refine List.flatMap_congr fun p _ => ?_
  rw [List.map_const', List.countP_eq_length_filter]

theorem noticesInv_iff {s : State} : s.noticesInv ↔ Noticed s := by
  have hcount : ∀ p, s.noticeFrames.count p = noticesIn (s.port p).queue := by
    intro p
    rw [noticeFrames_eq, List.count_flatMap]
    have hown : ∀ q, (List.count p ∘ fun r => List.replicate (noticesIn (s.port r).queue) r) q
        = if q = p then noticesIn (s.port p).queue else 0 := by
      intro q
      simp only [Function.comp_apply, List.count_replicate, beq_iff_eq]
      split
      · next h => rw [h]
      · rfl
    rw [List.map_congr_left fun q _ => hown q, ← Fin.sum_univ_def, Finset.sum_ite_eq' Finset.univ p]
    simp
  constructor
  · rintro ⟨hbound, hframes⟩
    refine ⟨hbound, fun p => ?_⟩
    rw [← hcount, hframes]
    cases s.notices.waiting <;> simp [List.count_singleton]
  · intro h
    refine ⟨h.bound, ?_⟩
    rw [noticeFrames_eq]
    simp only [h.frames]
    cases s.notices.waiting with
    | none => simp
    | some d => revert d; decide

section
variable {s t u : State} {p : Port} {x : PortRec}

theorem pushNotice_keeps (u : NoticeUnit) (k : NoticeKind) (time : Instant) (subject : Byte) (detail : Half) :
    (u.queue.length ≤ 32 → (pushNotice u k time subject detail).queue.length ≤ 32)
      ∧ (pushNotice u k time subject detail).waiting = u.waiting := by
  unfold pushNotice
  split
  · split
    · next hlength =>
      refine ⟨fun _ => ?_, rfl⟩
      rw [List.length_append]
      exact hlength
    · exact ⟨id, rfl⟩
  · exact ⟨id, rfl⟩

/-- No queue changes, and no frame begins or ends to wait. -/
theorem noticed_same (h : Noticed s) (hports : ∀ q, (t.port q).queue = (s.port q).queue)
    (hbound : s.notices.queue.length ≤ 32 → t.notices.queue.length ≤ 32)
    (hwaiting : t.notices.waiting = s.notices.waiting) : Noticed t :=
  ⟨hbound h.bound, fun q => by rw [hports, hwaiting, h.frames]⟩

theorem noticed_calm (h : Noticed s) (hports : ∀ q, (t.port q).queue = (s.port q).queue)
    (hnotices : t.notices = s.notices) : Noticed t :=
  noticed_same h hports (by rw [hnotices]; exact id) (by rw [hnotices])

theorem noticed_raise (h : Noticed s) (k : NoticeKind) (subject : Byte) (detail : Half) :
    Noticed (s.raise k subject detail) := by
  obtain ⟨hbound, hwaiting⟩ := pushNotice_keeps s.notices k s.cellTime subject detail
  exact noticed_same h (fun _ => rfl) hbound hwaiting

theorem setPort_queue (hx : x.queue = (s.port p).queue) (q : Port) :
    ((s.setPort p x).port q).queue = (s.port q).queue := by
  rw [State.port_setPort]
  split
  · next hq => rw [hx, hq]
  · rfl

theorem noticed_setPort (h : Noticed s) (hx : x.queue = (s.port p).queue) : Noticed (s.setPort p x) :=
  noticed_calm h (setPort_queue hx) rfl

theorem noticed_settle (h : Noticed s) (base : State) : Noticed (s.settle base) :=
  noticed_calm h (fun q => by rw [settle_port]) (settle_notices s base)

/-- Entries leave the queue of one port; a NOTICE frame among them waits no more (R114, R192). -/
theorem noticed_leave {es rest : List QueueEntry} (h : Noticed s) (hqueue : (s.port p).queue = es ++ rest)
    (hown : (t.port p).queue = rest) (hothers : ∀ q, q ≠ p → (t.port q).queue = (s.port q).queue)
    (hnotices : t.notices = noticesAfter s.notices es) : Noticed t := by
  have hframes := h.frames p
  unfold noticesIn at hframes
  rw [hqueue, List.countP_append] at hframes
  have hany : es.any (fun e => e.origin == .notice) = true ↔ 0 < es.countP fun e => e.origin == .notice := by
    rw [List.any_eq_true, List.countP_pos_iff]
  unfold noticesAfter at hnotices
  by_cases hleft : es.any (fun e => e.origin == .notice) = true
  · rw [if_pos hleft] at hnotices
    have hpos := hany.1 hleft
    have hwait : s.notices.waiting = some p := by
      by_contra hne
      rw [if_neg hne] at hframes
      omega
    rw [if_pos hwait] at hframes
    refine ⟨by rw [hnotices]; exact h.bound, fun q => ?_⟩
    rw [hnotices, if_neg (by simp)]
    by_cases hq : q = p
    · rw [hq, hown]
      unfold noticesIn
      omega
    · have hother := h.frames q
      rw [hwait, if_neg (by simpa using Ne.symm hq)] at hother
      rw [hothers q hq, hother]
  · rw [if_neg hleft] at hnotices
    have hzero : es.countP (fun e => e.origin == .notice) = 0 := by
      have := mt hany.2 hleft
      omega
    refine ⟨by rw [hnotices]; exact h.bound, fun q => ?_⟩
    rw [hnotices]
    by_cases hq : q = p
    · rw [hq, hown, ← hframes, hzero, Nat.zero_add]
      rfl
    · rw [hothers q hq, h.frames]

/-! ### The operations of a port -/

theorem noticed_flush (h : Noticed s) (p : Port) : Noticed (s.flushPort p) := by
  have hm := moved_flush s p
  exact noticed_leave h (List.append_nil _).symm (by rw [hm.own]; rfl) (fun q hq => by rw [hm.others q hq]) hm.notices

theorem noticed_dropReception (h : Noticed s) (p : Port) : Noticed (s.dropReception p) := by
  refine noticed_calm h (fun q => ?_) (dropReception_notices s p)
  rw [dropReception_port]
  split
  · next hq => rw [hq]
  · rfl

theorem noticed_dropRef? (h : Noticed s) (b : Option BufId) : Noticed (s.dropRef? b) :=
  noticed_calm h (fun q => by rw [dropRef?_port]) (dropRef?_notices s b)

theorem noticed_warnedTest (h : Noticed s) (p : Port) : Noticed (s.warnedTest p) := by
  unfold State.warnedTest
  dsimp only
  split
  · exact noticed_raise (noticed_setPort h (by rfl)) _ _ _
  · exact noticed_setPort h (by rfl)

theorem noticed_scoreRise (h : Noticed s) (p : Port) (w : Nat) : Noticed (s.scoreRise p w) := by
  unfold State.scoreRise
  exact noticed_warnedTest (noticed_setPort h (by rfl)) p

theorem noticed_enterQuarantine (h : Noticed s) (p : Port) : Noticed (s.enterQuarantine p) := by
  unfold State.enterQuarantine
  dsimp only
  refine noticed_raise (noticed_setPort ?_ (by rfl)) _ _ _
  split
  · exact noticed_flush h p
  · exact h

theorem noticed_quarantineTest (h : Noticed s) (p : Port) : Noticed (s.quarantineTest p) := by
  obtain ⟨-, -, ht⟩ | ⟨-, ht⟩ := quarantineTest_cases s p
  · rw [ht]
    exact noticed_enterQuarantine h p
  · rw [ht]
    exact h

theorem noticed_leaveUp (h : Noticed s) (p : Port) (d : LinkState) : Noticed (s.leaveUp p d) := by
  unfold State.leaveUp
  exact noticed_raise (noticed_setPort (noticed_flush h p) (by rfl)) _ _ _

theorem noticed_enterTraining (h : Noticed s) (p : Port) : Noticed (s.enterTraining p) := by
  unfold State.enterTraining
  exact noticed_quarantineTest (noticed_setPort (noticed_dropReception h p) (by rfl)) p

theorem noticed_endQuarantine (h : Noticed s) (p : Port) : Noticed (s.endQuarantine p) := by
  unfold State.endQuarantine
  exact noticed_enterTraining (noticed_setPort h (by rfl)) p

theorem noticed_signalOn (h : Noticed s) (p : Port) : Noticed (s.signalOn p) := by
  have hset : Noticed (s.setPort p { s.port p with signal := true }) := noticed_setPort h (by rfl)
  by_cases hl : (s.port p).link = .down
  · rw [signalOn_of_down hl]
    exact noticed_enterTraining hset p
  · rw [signalOn_of_ne_down hl]
    exact hset

theorem noticed_runt (h : Noticed s) (p : Port) : Noticed (s.runtAtSignalLoss p) := by
  unfold State.runtAtSignalLoss
  split
  · dsimp only
    refine noticed_scoreRise ?_ p _
    refine noticed_dropRef? ?_ _
    exact noticed_setPort h (by rfl)
  · exact noticed_setPort h (by rfl)

theorem noticed_discard (h : Noticed s) (p : Port) : Noticed (s.discardAtSignalLoss p) := by
  unfold State.discardAtSignalLoss
  split
  · dsimp only
    exact noticed_dropRef? (noticed_setPort h (by rfl)) _
  · exact noticed_setPort h (by rfl)

theorem noticed_signalOff (h : Noticed s) (p : Port) : Noticed (s.signalOff p) := by
  have hset : Noticed (s.setPort p { s.port p with signal := false }) := noticed_setPort h (by rfl)
  unfold State.signalOff
  dsimp only
  split
  · exact hset
  · exact hset
  · exact noticed_setPort hset (by rfl)
  · exact noticed_settle (noticed_runt (noticed_leaveUp hset p _) p) s
  · exact noticed_settle (noticed_setPort (noticed_setPort (noticed_discard hset p) (by rfl)) (by rfl)) s

theorem noticed_rxError (h : Noticed s) (p : Port) (o : Option BufId) (e : RxError) (rx : Reception) :
    Noticed (s.rxError p o e rx) := by
  unfold State.rxError
  dsimp only
  refine noticed_settle ?_ s
  have hdrop : ∀ y : PortRec, y.queue = (s.port p).queue → Noticed ((s.setPort p y).dropRef? o) :=
    fun y hy => noticed_dropRef? (noticed_setPort h hy) o
  split
  · refine noticed_quarantineTest (noticed_scoreRise (hdrop _ ?_) p _) p
    rfl
  · refine hdrop _ ?_
    rfl

theorem noticed_select (h : Noticed s) (p : Port) : Noticed (s.select p) := by
  cases hc : (s.port p).canSelect with
  | false => rwa [select_of_not_canSelect hc]
  | true =>
    have hm := moved_select hc
    exact noticed_leave h (selectFrom_split _ _ _).symm (by rw [hm.own]) (fun q hq => by rw [hm.others q hq]) hm.notices

theorem noticed_endTransmission (h : Noticed s) (p : Port) (x : Tx) : Noticed (s.endTransmission p x) := by
  unfold State.endTransmission
  exact noticed_select (noticed_dropRef? (noticed_setPort h (by rfl)) (some x.buf)) p

theorem noticed_flushAll (h : Noticed s) : Noticed s.flushAll := by
  have hflush : ∀ (ps : List Port) (t : State), Noticed t → Noticed (ps.foldl State.flushPort t) := by
    intro ps
    induction ps with
    | nil => exact fun _ ht => ht
    | cons p ps ih => exact fun t ht => ih _ (noticed_flush ht p)
  exact noticed_settle (hflush _ s h) s

theorem noticed_applyConfig (h : Noticed s) (p : Port) (c : PortConfig) : Noticed (s.applyConfig p c) := by
  have henable : ∀ t old new, Noticed t → Noticed (t.applyEnable p old new) := by
    intro t old new ht
    unfold State.applyEnable
    split
    · unfold State.enablePort
      dsimp only
      split
      · exact noticed_setPort ht (by rfl)
      · exact ht
    · split
      · unfold State.disablePort
        refine noticed_dropReception ?_ p
        split
        · exact ht
        · exact noticed_setPort ht (by rfl)
        · exact noticed_setPort ht (by rfl)
        · exact noticed_leaveUp ht p _
        · exact noticed_setPort (noticed_setPort ht (by rfl)) (by rfl)
      · exact ht
  have hleak : ∀ t old, Noticed t → Noticed (t.applyLeak p old) := by
    intro t old ht
    unfold State.applyLeak
    dsimp only
    split
    · exact noticed_setPort ht (by rfl)
    · exact ht
  unfold State.applyConfig
  exact noticed_settle (noticed_quarantineTest (noticed_warnedTest
    (hleak _ _ (henable _ _ _ (noticed_setPort h (by rfl)))) p)
    p) s

/-! ### Buffers, copies and replies -/

theorem noticed_alloc {n : Nat} {b : BufId} (hn : 1 ≤ n) (h : Noticed s) (ha : s.alloc n = some (b, t)) : Noticed t := by
  have hal := alloc_allocated hn ha
  obtain ⟨hbound, hwaiting⟩ := pushNotice_keeps s.notices .poolLow s.cellTime 0 (BitVec.ofNat 16 (s.freeCount - 1))
  refine noticed_same h (fun q => by rw [hal.ports q]) ?_ ?_
  · rw [hal.notices]
    split
    · exact hbound
    · exact id
  · rw [hal.notices]
    split
    · exact hwaiting
    · rfl

theorem noticesIn_insert (e : QueueEntry) (q : List QueueEntry) :
    noticesIn (insertEntry e q) = noticesIn q + if e.origin == .notice then 1 else 0 := by
  unfold noticesIn
  rw [(insertEntry_perm e q).countP_eq, List.countP_cons]

/-- A reply or a copy that joins a queue is no NOTICE frame. -/
theorem noticed_enqueue {e : QueueEntry} (h : Noticed s) (p : Port) (he : (e.origin == .notice) = false) :
    Noticed (s.enqueue p e) := by
  refine ⟨h.bound, fun q => ?_⟩
  unfold State.enqueue
  rw [State.port_setPort]
  split
  · next hq =>
    rw [hq, noticesIn_insert, he]
    exact h.frames p
  · exact h.frames q

theorem noticed_sendReply {r : Taken} (h : Noticed s) (payload : List Byte) : Noticed (s.sendReply r payload) := by
  unfold State.sendReply
  split
  · exact noticed_settle (noticed_calm (t := s.countReplyDropped.dropRef r.buf) h (fun _ => rfl) rfl) s
  · next b t ha =>
    have ht : Noticed (t.writeFrame b (replyFrame r payload)) :=
      noticed_calm (noticed_alloc (by decide) h ha) (fun _ => rfl) rfl
    refine noticed_settle (noticed_dropRef? ?_ (some r.buf)) t
    split
    · exact noticed_enqueue ht _ rfl
    · exact noticed_calm ht (fun _ => rfl) rfl

theorem noticed_dropFrame {f : FrameEnd} (h : Noticed s) (count : PortCounters → PortCounters) :
    Noticed (s.dropFrame f count) := by
  unfold State.dropFrame State.countPort
  exact noticed_dropRef? (noticed_setPort h (by rfl)) (some f.buf)

theorem noticed_sendCopies {f : FrameEnd} (h : Noticed s) (set : PortSet) (prio : Prio) (tag : Tag) :
    Noticed (s.sendCopies f set prio tag) := by
  have hoffer : ∀ (qs : List Port) (e : QueueEntry), (e.origin == .notice) = false → ∀ t, Noticed t →
      Noticed (offers t e qs) := by
    intro qs e he
    induction qs with
    | nil => exact fun _ ht => ht
    | cons q qs ih =>
      intro t ht
      refine ih (t.offerCopy e q) ?_
      unfold State.offerCopy
      split
      · exact noticed_enqueue ht q he
      · exact noticed_setPort ht (by rfl)
  by_cases hout : s.egressSet f.port set = []
  · rw [sendCopies_nowhere hout]
    exact noticed_dropFrame h _
  · rw [sendCopies_somewhere hout]
    exact noticed_calm (hoffer _ _ rfl s h) (fun _ => rfl) rfl

theorem noticed_shown (h : Noticed s) (hu : Shown s u) : Noticed u := by
  cases hu with
  | missed => exact h
  | hit i flow header forward =>
    have hbump : Noticed (s.bumpHit i) := noticed_calm h (fun _ => rfl) rfl
    unfold State.flowHandOff
    split
    · exact hbump
    · dsimp only
      split
      · exact noticed_raise (noticed_calm hbump (by exact fun _ => rfl) (by rfl)) _ _ _
      · exact noticed_calm hbump (fun _ => rfl) rfl

theorem noticed_classified {f : FrameEnd} (h : Noticed s) (hc : Classified s f t) : Noticed t := by
  cases hc with
  | captured => exact noticed_calm h (fun _ => rfl) rfl
  | lost => exact noticed_calm h (fun _ => rfl) rfl
  | dropped hu count => exact noticed_dropFrame (noticed_shown h hu) count
  | sent hu set prio tag => exact noticed_sendCopies (noticed_shown h hu) set prio tag

theorem noticed_beginFrame (h : Noticed s) (p : Port) : Noticed (s.beginFrame p) := by
  unfold State.beginFrame
  split
  · split
    · next b t ha => exact noticed_setPort (noticed_alloc (by decide) h ha) (by rfl)
    · exact noticed_setPort h (by rfl)
  · exact noticed_setPort h (by rfl)

theorem noticed_stroke (h : Noticed s) (hs : Stroke p s t) : Noticed t := by
  cases hs with
  | train | relink | delimiter | noBufferByte => exact noticed_setPort h (by rfl)
  | goUp => exact noticed_raise (noticed_setPort h (by rfl)) _ _ _
  | loseLock => exact noticed_settle (noticed_enterTraining (noticed_leaveUp h p _) p) s
  | beginFrame => exact noticed_beginFrame h p
  | error => exact noticed_rxError h p _ _ _
  | byte => exact noticed_calm h (setPort_queue rfl) rfl
  | discarded => exact noticed_settle (noticed_dropRef? (noticed_setPort h (by rfl)) _) s
  | classified _ _ ht => exact noticed_settle (noticed_classified (noticed_setPort h (by rfl)) ht) s
  | @classifiedAnew b l u t hu hx ha ht =>
    have hwritten : Noticed (u.writeFrame b l) := noticed_calm (noticed_alloc (by decide) h ha) (fun _ => rfl) rfl
    exact noticed_settle (noticed_classified (noticed_setPort hwritten (by rfl)) ht) _

theorem noticed_receive (h : Noticed s) (p : Port) (sym : Symbol) : Noticed (s.receive p sym) :=
  kept_by_receive (P := Noticed) p (fun _ _ hs hu => noticed_stroke hu hs) h sym

theorem reportLost_keeps (u : NoticeUnit) (time : Instant) :
    (u.queue.length ≤ 20 → (reportLost u time).queue.length ≤ 32) ∧ (reportLost u time).waiting = u.waiting := by
  unfold reportLost
  split
  · exact ⟨fun h => h.trans (by decide), rfl⟩
  · split
    · refine ⟨fun h => ?_, rfl⟩
      rw [List.length_append, List.length_singleton]
      omega
    · exact ⟨fun h => h.trans (by decide), rfl⟩

/-- The frame of a build joins its queue and waits there (R191). -/
theorem noticed_buildInto (h : Noticed s) (hwait : s.notices.waiting = none) (b : BufId) : Noticed (s.buildInto b) := by
  have hkeeps := reportLost_keeps
    { s.notices with queue := s.notices.queue.drop Config.recordsPerFrame, waiting := some s.notices.cfg.dest } s.cellTime
  have hbound := h.bound
  refine ⟨hkeeps.1 ?_, fun q => ?_⟩
  · rw [List.length_drop]
    simp only [Config.recordsPerFrame]
    omega
  · have hwaits : (s.buildInto b).notices.waiting = some s.notices.cfg.dest := hkeeps.2
    have hframes := h.frames q
    rw [hwait, if_neg (by simp)] at hframes
    have hqueue : ((s.buildInto b).port q).queue = if q = s.notices.cfg.dest then
        insertEntry { buf := b, prio := s.notices.cfg.prio, time := s.localTime, origin := .notice }
          (s.port s.notices.cfg.dest).queue
      else (s.port q).queue := by
      show (((s.writeFrame b _).setPort s.notices.cfg.dest _).port q).queue = _
      rw [State.port_setPort]
      split <;> rfl
    rw [hwaits, hqueue]
    by_cases hq : q = s.notices.cfg.dest
    · rw [if_pos hq, noticesIn_insert, ← hq, hframes, if_pos rfl]
      rfl
    · rw [if_neg hq, hframes, if_neg (by simpa using Ne.symm hq)]

/-- A build, with no frame waiting: its own frame waits, and at most 21 records are left (R189, R191). -/
theorem noticed_build (h : Noticed s) : Noticed s.build := by
  unfold State.build
  split
  · next hc =>
    split
    · next b t ha =>
      have hwait : s.notices.waiting = none := by
        unfold State.sendCondition at hc
        simp only [Bool.and_eq_true, Option.isNone_iff_eq_none] at hc
        exact hc.1.1
      have hal := alloc_allocated (by decide) ha
      have hkeeps := pushNotice_keeps s.notices .poolLow s.cellTime 0 (BitVec.ofNat 16 (s.freeCount - 1))
      have htwait : t.notices.waiting = none := by
        rw [hal.notices]
        split
        · exact hkeeps.2.trans hwait
        · exact hwait
      exact noticed_buildInto (noticed_alloc (by decide) h ha) htwait b
    · exact h
  · exact h

/-! ### Takings -/

theorem noticed_fullReset (s : State) (b : BufId) : Noticed (s.fullReset b) := by
  have hkeeps := pushNotice_keeps
    { queue := [], nextSeq := s.notices.nextSeq, lost := 0, cfg := defaultNoticeConfig, waiting := none } .restarted
    s.cellTime 1 (BitVec.ofNat 16 s.notices.queue.length)
  refine ⟨hkeeps.1 (Nat.zero_le _), fun p => ?_⟩
  have hnone : (s.fullReset b).notices.waiting = none := hkeeps.2
  rw [fullReset_port, hnone]
  rfl

theorem noticed_swap (h : Noticed s) : Noticed s.swap := by
  unfold State.swap
  dsimp only
  have hflip : Noticed { s with active := s.shadow, hits := Vector.replicate 64 0 } := noticed_calm h (fun _ => rfl) rfl
  have hmirror : ∀ u : State, Noticed u → Noticed u.startMirror := fun u hu => by
    rw [startMirror_frame]
    exact noticed_calm hu (fun _ => rfl) rfl
  split
  · exact hmirror _ (noticed_raise hflip _ _ _)
  · exact hmirror _ hflip

theorem noticed_carried {r : Taken} {row : Instr} (h : Noticed s) (hc : Carried r s row t) : Noticed t := by
  cases hc with
  | same => exact h
  | clearPort p => exact noticed_setPort h (by rfl)
  | clearHits first count =>
    exact noticed_calm h (fun q => by unfold State.port; rw [State.clearHits_ports]) (s.clearHits_notices first count)
  | adjust step =>
    have hstep : Noticed { s with offset := s.offset + step } := noticed_calm h (fun _ => rfl) rfl
    unfold State.adjustOffset
    dsimp only
    split
    · exact noticed_swap hstep
    · exact hstep
  | write b =>
    rw [renew_frame]
    exact noticed_calm h (fun _ => rfl) rfl
  | renew =>
    rw [renew_frame]
    exact noticed_calm h (fun _ => rfl) rfl
  | commit => exact noticed_swap h
  | abandon =>
    rw [startMirror_frame]
    exact noticed_calm h (fun _ => rfl) rfl
  | configure p => exact noticed_applyConfig h p _
  | release p => exact noticed_settle (noticed_endQuarantine h p) s
  | setNotices c => exact noticed_same h (fun _ => rfl) id rfl
  | traffic =>
    exact kept_by_trafficReset (P := Noticed) (fun _ _ hu => noticed_calm hu (fun _ => rfl) rfl) (noticed_flushAll h)
  | full => exact noticed_fullReset s r.buf
  | clearPool | clearAgent | lease | schedule | clearFlow | armFlow | zeroFlow => exact noticed_calm h (fun _ => rfl) rfl

end

/-! ### Every step -/

theorem noticed_powerOn (st : Straps) (lanes : PortSet) : Noticed (State.powerOn st lanes) := by
  have hbound : initialNotices.queue.length ≤ 32 := by decide
  refine ⟨hbound, fun p => ?_⟩
  rw [powerOn_port]
  rfl

theorem noticed_heldInReset (st : Straps) : Noticed (State.heldInReset st) := by
  refine ⟨Nat.zero_le _, fun p => ?_⟩
  have hport : (State.heldInReset st).port p = initialPort st 0 p := powerOn_port st 0 p
  rw [hport]
  rfl

theorem noticed_tick {s : State} (h : Noticed s) : Noticed s.tick := by
  cases hr : s.running with
  | false => rwa [tick_of_not_running hr]
  | true =>
    refine noticed_calm h (fun q => ?_) (by rw [tick_eq hr])
    rw [tick_port hr]
    unfold PortRec.symbolTime
    split
    · split <;> rfl
    · rfl

theorem noticed_happens {c : Instr} {s t : State} (hc : Happens s c t) (h : Noticed s) : Noticed t := by
  have hagent : ∀ u a, Noticed u → Noticed { u with agent := a } := fun _ _ hu => noticed_calm hu (fun _ => rfl) rfl
  have hreply : ∀ u r payload, Noticed u → Noticed (u.sendReply r payload) := fun _ _ payload hu =>
    noticed_sendReply hu payload
  cases hc with
  | nothing => exact h
  | powerOn st lanes => exact noticed_calm (noticed_powerOn st lanes) (fun _ => rfl) rfl
  | resetHeld => exact noticed_calm (noticed_heldInReset s.straps) (fun _ => rfl) rfl
  | received p sym => exact noticed_receive h p sym
  | signalOn p => exact noticed_signalOn h p
  | signalOff p => exact noticed_signalOff h p
  | holdExpiry p => exact noticed_setPort h (by rfl)
  | leak p =>
    unfold State.leakStep
    exact noticed_warnedTest (noticed_setPort h (by rfl)) p
  | quarantineEnd p => exact noticed_settle (noticed_endQuarantine h p) s
  | holdRepeat =>
    refine noticed_calm h (fun q => ?_) rfl
    rw [State.port_sendToUp]
    split <;> rfl
  | selection p => exact noticed_settle (noticed_select h p) s
  | transmissionEnd p => exact noticed_settle (noticed_endTransmission h p _) s
  | deadlineExpiry i d =>
    unfold State.expireFlow
    dsimp only
    split
    · obtain ⟨hbound, hwaiting⟩ := pushNotice_keeps s.notices _ _ _ _
      exact noticed_same h (fun _ => rfl) hbound hwaiting
    · exact noticed_calm h (fun _ => rfl) rfl
  | fillUp i => exact noticed_calm h (fun _ => rfl) rfl
  | leaseExpiry =>
    rw [startMirror_frame]
    exact noticed_calm (noticed_raise h _ _ _) (fun _ => rfl) rfl
  | activation => exact noticed_swap h
  | mirrorStep =>
    rw [mirrorCopy_frame]
    exact noticed_calm h (fun _ => rfl) rfl
  | agentReady => exact noticed_calm h (fun _ => rfl) rfl
  | entryExpiry => exact noticed_calm h (fun _ => rfl) rfl
  | malformed =>
    rw [takeMalformed_eq]
    exact noticed_settle (noticed_dropRef? (hagent s _ h) (some _)) s
  | replay => exact kept_by_takeReplay hagent hreply _ h
  | carriedOut _ _ hcarried => exact kept_by_carryOut hagent (fun _ _ _ _ hcr hu => noticed_carried hu hcr) hreply h hcarried
  | build => exact noticed_build h

/-- Settles O58: the account of the references and the account of the NOTICE frames, through every happening. -/
theorem everyStepKeepsTheReferencesAndNotices : Obligations.EveryStepKeepsTheReferencesAndNotices := by
  refine ⟨refsInv_of_step, fun s t hs h => ?_⟩
  rw [noticesInv_iff] at hs ⊢
  exact kept_by_step (P := Noticed) (fun _ _ hu => noticed_calm hu (fun _ => rfl) rfl)
    (fun _ _ _ hc hu => noticed_happens hc hu) (fun _ hu => noticed_tick hu) s t hs h

end Sys2Proof.Waiting
end

section
/-! The state after reset, the timers of the Bank Controller and of the Agent, and the takings that carry nothing out
(02, 08). -/

namespace Sys2Proof.Timers
open Sys2Proof.Machine Sys2Proof.Happenings Sys2Proof.Frames Sys2Proof.Course Sys2Proof.PortMoves

/-! ### After reset -/

/-- Settles O59: the state after reset is a power-on state, which meets each invariant. -/
theorem resetMeetsTheInvariants : Obligations.ResetMeetsTheInvariants := by
  refine ⟨Flows.flowsInv_powerOn _ _, fun p => ?_, LinkPorts.reachable_default (st := State.reset.straps) ?_,
    Keepers.banksInv_cleared rfl rfl, Keepers.agentInv_cleared rfl rfl,
    References.refsInv_iff.2 (Holdings.account_powerOn _ _),
    Waiting.noticesInv_iff.2 (Waiting.noticed_powerOn _ _)⟩
  · have hport : State.reset.port p = initialPort State.reset.straps 0 p := powerOn_port _ _ p
    rw [hport]
    exact LinkPorts.portOk_initialPort _ _ p
  · have hport : State.reset.port 0 = initialPort State.reset.straps 0 0 := powerOn_port _ _ 0
    rw [hport]
    rfl

/-! ### The Bank Controller's timers (R27, R34, R37) -/

theorem activationDue_iff {s : State} {k : Key} {a : Instant} (hc : s.ctrl = .scheduled k a) :
    s.activationDue = true ↔ (a - s.cellTime).toNat = 0 ∨ 2 ^ 31 ≤ (a - s.cellTime).toNat := by
  unfold State.activationDue
  rw [hc]
  exact activationReached_iff a s.cellTime

/-- Settles O33: the lease's end and the swap are those of the laws, taken when their instants have passed. -/
theorem leaseAndActivationTimers : Obligations.LeaseAndActivationTimers := by
  refine ⟨fun k n e s hr hc hp => ?_, fun k a s hr hc => ?_⟩
  · have hexec : exec .leaseExpiry s = .next (s.raise .leaseExpired (byteOf k.port) k.handle).startMirror := by
      show execLeaseExpiry s = _
      unfold execLeaseExpiry
      rw [hc]
      dsimp only
      rw [hr, hp]
      rfl
    have hholder : holderOf (s.raise .leaseExpired (byteOf k.port) k.handle).ctrl = some k := by
      show holderOf s.ctrl = some k
      rw [hc]
      rfl
    rw [hexec, State.startMirror_eq hholder]
    rfl
  · have hexec : exec .activation s = .next (if s.running && s.activationDue then s.swap else s) := rfl
    rw [hr, Bool.true_and] at hexec
    rw [hexec]
    refine ⟨fun h1 h2 => ?_, fun h => ?_⟩
    · rw [if_neg]
      intro hd
      have := (activationDue_iff hc).1 hd
      omega
    · rw [if_pos ((activationDue_iff hc).2 h), State.swap_eq (k := k) (by rw [hc]; rfl)]
      rfl

/-- Settles O34: step 64 and the 64 before it are the two branches of the copy. -/
theorem mirrorStepsCopyTheActiveBank : Obligations.MirrorStepsCopyTheActiveBank := by
  intro k e s hr hc hp
  have hexec : exec .mirrorStep s = .next (s.mirrorCopy k e) := by
    show execMirrorStep s = _
    unfold execMirrorStep
    rw [hc]
    dsimp only
    rw [hr, show s.passed (mirrorAt e k) = true from hp]
    rfl
  refine ⟨_, hexec, mirrorCopy_frame s k e, (within_mirrorCopy s k e).activeBank, fun hk => ?_, fun hk => ?_⟩
  · have hcopy : s.mirrorCopy k e
        = { s.setShadowEntry ⟨k.val, hk⟩ (s.activeBank.entries.get ⟨k.val, hk⟩) with
            ctrl := .mirroring ⟨k.val + 1, Nat.succ_lt_succ hk⟩ e } := dif_pos hk
    have hshadow : (s.mirrorCopy k e).shadowBank = { s.shadowBank with
        entries := s.shadowBank.entries.set k.val (s.activeBank.entries.get ⟨k.val, hk⟩) hk } := by
      rw [hcopy]
      exact State.shadowBank_setShadow s _
    rw [hshadow]
    refine ⟨rfl, ⟨⟨k.val + 1, Nat.succ_lt_succ hk⟩, rfl, by rw [hcopy]⟩, fun i => ?_⟩
    refine (get_set s.shadowBank.entries ⟨k.val, hk⟩ i _).trans ?_
    by_cases hi : i.val = k.val
    · have hfin : i = ⟨k.val, hk⟩ := Fin.ext hi
      rw [if_pos hfin, if_pos hi, hfin]
    · rw [if_neg (fun h => hi (congrArg Fin.val h)), if_neg hi]
  · have hcopy : s.mirrorCopy k e
        = { s.setShadow { s.shadowBank with miss := s.activeBank.miss } with ctrl := .free } := dif_neg (by omega)
    rw [hcopy]
    exact ⟨rfl, State.shadowBank_setShadow s _⟩

/-! ### The Agent's timers (R146, R152) -/

/-- Settles O35: the tests of the two happenings, read on the instants. -/
theorem agentTimersRunOut : Obligations.AgentTimersRunOut := by
  intro s hr
  refine ⟨fun e he hp => ?_, fun k => ?_⟩
  · have hdue : s.busyOver = true := by
      unfold State.busyOver
      rw [he]
      exact hp
    show execAgentReady s = _
    unfold execAgentReady
    rw [hr, hdue]
    rfl
  · show execRequesterEntryExpiry k s = _
    unfold execRequesterEntryExpiry
    rw [if_pos hr]
    have hfilter : s.agent.table.filter (fun e => !(e.key == k && s.entryExpired e))
        = s.agent.table.filter fun e =>
          !(decide (e.key = k ∧ holderOf s.ctrl ≠ some k) && s.passed (e.lastUsed + 900000000)) := by
      refine List.filter_congr fun e _ => ?_
      unfold State.entryExpired State.protectedKey
      by_cases hk : e.key = k
      · rw [hk]
        cases hh : (holderOf s.ctrl == some k) <;> simp_all [Config.entryLife]
      · simp [hk]
    rw [hfilter]

/-! ### Takings that carry nothing out (R147, R148, R155) -/

/-- The row of a request that is not carried out. -/
theorem takingRow_short {s : State} {r : Taken} (h : r.payload.length < 3) : s.takingRow r = .malformed := by
  unfold State.takingRow
  rw [if_pos h]

theorem takingRow_retry {s : State} {r : Taken} {e : Requester} (h : 3 ≤ r.payload.length)
    (he : s.requester r.key = some e) (hseq : e.seq = r.seq) : s.takingRow r = .replay := by
  unfold State.takingRow
  rw [if_neg (by omega), he, if_pos]
  simpa using hseq

/-- The agent's table once a known requester is served (R148). -/
theorem served_known {s : State} {r : Taken} {e : Requester} (he : s.requester r.key = some e) :
    (s.served r).agent.table = s.agent.table.filter (fun x => x.key != r.key) ++ [{ e with lastUsed := s.localTime }] := by
  have he' : s.beginTaking.requester r.key = some e := he
  unfold State.served State.placeRequester
  rw [he']
  rfl

/-- Settles O36: a short request is given back; a retry's entry is moved, and its reply sent as any other. -/
theorem shortRequestsAndRetries : Obligations.ShortRequestsAndRetries := by
  refine ⟨fun r s h hshort => ?_, fun r e s h hlong he hseq => ?_⟩
  · have hexec : exec .malformed s = .next (State.takeMalformed r s) :=
      congrArg Host.Outcome.next (taking_eq h (takingRow_short hshort))
    refine ⟨_, hexec, ?_⟩
    rw [takeMalformed_eq]
    exact (moved_dropRef { s with agent := malformedAgent s } r.port r.buf).settle
  · obtain ⟨-, -, -, hrefs, hwf⟩ := id h
    have hexec : exec .replay s = .next (State.takeReplay r s) :=
      congrArg Host.Outcome.next (taking_eq h (takingRow_retry hlong he hseq))
    have hkey : e.key = r.key := requester_key he
    obtain ⟨hdelivered, hagent⟩ := sendReply_delivers (u := { s with agent := replayAgent s r }) (r := r) e.reply hwf hrefs
    rw [takeReplay_eq he] at hexec
    refine ⟨_, hexec, ?_, hdelivered.of_agent⟩
    rw [hagent]
    have htable : (replayAgent s r).table = s.agent.table.filter (fun x => x.key != r.key)
        ++ [{ key := r.key, seq := r.seq, reply := e.reply, lastUsed := s.localTime }] := by
      have hentry : ({ e with lastUsed := s.localTime } : Requester)
          = { key := r.key, seq := r.seq, reply := e.reply, lastUsed := s.localTime } := by
        rw [← hkey, ← hseq]
      rw [← hentry]
      exact served_known he
    show ({ replayAgent s r with counters := _ } : Agent) = _
    unfold State.answered
    rw [← htable]
    rfl

end Sys2Proof.Timers
end

section
/-! The commands that identify and read: their arguments, the states they leave and the results of their replies (09). -/

namespace Sys2Proof.Reading
open Sys2Proof.Machine Sys2Proof.BankController

/-! ### From a command's answer to its reply -/

section
variable {s u : State} {r : Taken} {row : Instr} {code : Byte} {n : Nat} {st : Status} {results : List Byte}
  {cmd : Taken → State → Answer}

theorem replied_of_taking (h : s.carries r) (hrow : commandRow r.code r.args = row)
    (hexec : exec row s = .next (s.taking row (State.carryOut cmd)))
    (hcmd : cmd r (s.served r) = { state := { u with agent := (s.served r).agent }, status := st, results := results })
    (hpool : u.pool = s.pool) (htime : u.localTime = s.localTime) :
    ∃ t, exec row s = .next t ∧ Replied s u t r st results := by
  obtain ⟨-, -, -, hrefs, hwf⟩ := h.1
  refine ⟨s.carryOut cmd r, by rw [hexec, taking_eq h.1 (by rw [takingRow_of_carries h, hrow])], ?_⟩
  refine carryOut_replied hcmd (hpool ▸ hwf) ?_ htime
  rw [State.buf, hpool]
  exact hrefs

theorem replied_refused (h : s.carriesCommand r code n) (hrow : commandRow code r.args = row)
    (hexec : exec row s = .next (s.taking row (State.carryOut (checkLength n cmd))))
    (hcmd : cmd r (s.served r) = (s.served r).refuse st) : ∃ t, exec row s = .next t ∧ Replied s s t r st [] :=
  exists_replied_of_cmd h hrow hexec hcmd rfl rfl

theorem replied_accepted (h : s.carriesCommand r code n) (hrow : commandRow code r.args = row)
    (hexec : exec row s = .next (s.taking row (State.carryOut (checkLength n cmd))))
    (hcmd : cmd r (s.served r) = (s.served r).accept results) :
    ∃ t, exec row s = .next t ∧ Replied s s t r .ok results :=
  exists_replied_of_cmd h hrow hexec hcmd rfl rfl

end

/-! ### Arguments -/

theorem portArg_of_eq {b : Byte} {p : Port} (h : b.toNat = p.val) : portArg b = some p := by
  have hlt : b.toNat < 4 := h ▸ p.isLt
  unfold portArg
  rw [dif_pos hlt]
  exact congrArg some (Fin.ext h)

theorem portArg_none {b : Byte} (h : 3 < b.toNat) : portArg b = none := dif_neg (by omega)

theorem flowArg_of_eq {b : Byte} {i : FlowIx} (h : b.toNat = i.val) : flowArg b = some i := by
  have hlt : b.toNat < 128 := h ▸ i.isLt
  unfold flowArg
  rw [dif_pos hlt]
  exact congrArg some (Fin.ext h)

theorem flowArg_none {b : Byte} (h : 127 < b.toNat) : flowArg b = none := dif_neg (by omega)

theorem clearArg_zero {b : Byte} (h : b = 0) : clearArg b = some false := if_pos h

theorem clearArg_one {b : Byte} (h : b = 1) : clearArg b = some true := by rw [h]; rfl

theorem clearArg_none {b : Byte} (h : 1 < b.toNat) : clearArg b = none := by
  unfold clearArg
  rw [if_neg, if_neg]
  · rintro rfl
    exact absurd h (by decide)
  · rintro rfl
    exact absurd h (by decide)

theorem noRange_iff (args : List Byte) : noRange args = true ↔ byteAt args 2 = 0 ∧ byteAt args 3 = 0 := by
  unfold noRange
  rw [Bool.and_eq_true, beq_iff_eq, beq_iff_eq]

theorem rangeOk_iff (first count : Byte) (most : Nat) : rangeOk first count most = true ↔
    first.toNat < 64 ∧ 1 ≤ count.toNat ∧ count.toNat ≤ most ∧ first.toNat + count.toNat ≤ 64 := by
  unfold rangeOk
  simp only [Bool.and_eq_true, decide_eq_true_eq]
  omega

/-! ### Unknown codes and wrong lengths (R149, R200) -/

/-- The command codes with their argument lengths (R200). -/
abbrev commandLengths : List (Nat × Nat) :=
  [(0x01, 0), (0x02, 4), (0x03, 4), (0x10, 2), (0x11, 19), (0x12, 2), (0x13, 1), (0x14, 3), (0x15, 5), (0x16, 0),
    (0x20, 17),
    (0x21, 2), (0x30, 11), (0x31, 1), (0x32, 1), (0x40, 7), (0x7F, 1)]

theorem commandRow_unknown {code : Byte} (args : List Byte)
    (h : code.toNat ∉ [0x01, 0x02, 0x03, 0x10, 0x11, 0x12, 0x13, 0x14, 0x15, 0x16, 0x20, 0x21, 0x30, 0x31, 0x32, 0x40,
      0x7F]) : commandRow code args = .unknownCommand := by
  unfold commandRow
  split
  case h_18 => rfl
  all_goals
    next hc => exact absurd (by rw [hc]; decide) h

/-- The row checks that the arguments are `n` bytes long, and then carries out `cmd`. -/
def LengthFirst (row : Instr) (n : Nat) : Prop :=
  ∃ cmd, ∀ s, exec row s = .next (s.taking row (State.carryOut (checkLength n cmd)))

theorem length_of_code {code : Byte} {n k m : Nat} (hc : code.toNat = k) (h : (code.toNat, n) ∈ commandLengths)
    (hk : commandLengths.lookup k = some m) : n = m := by
  have hall : ∀ x ∈ commandLengths, commandLengths.lookup x.1 = some x.2 := by decide
  have hn := hall _ h
  rw [hc, hk] at hn
  exact (Option.some.inj hn).symm

/-- Every row of a command checks the one length of its arguments first (R149). -/
theorem lengthFirst_commandRow {code : Byte} (args : List Byte) {n : Nat} (h : (code.toNat, n) ∈ commandLengths) :
    LengthFirst (commandRow code args) n := by
  have hlength : ∀ {k m}, code.toNat = k → commandLengths.lookup k = some m → n = m := fun hc hk => length_of_code hc h hk
  unfold commandRow
  split
  · next hc =>
    obtain rfl : n = 0 := hlength hc rfl
    exact ⟨cmdIdentify, fun _ => rfl⟩
  · next hc =>
    obtain rfl : n = 4 := hlength hc rfl
    split
    · exact ⟨cmdReadCountersPool, fun _ => rfl⟩
    · exact ⟨cmdReadCountersAgent, fun _ => rfl⟩
    · exact ⟨cmdReadCountersRules, fun _ => rfl⟩
    · exact ⟨cmdReadCountersPort, fun _ => rfl⟩
  · next hc =>
    obtain rfl : n = 4 := hlength hc rfl
    exact ⟨cmdAdjustTime, fun _ => rfl⟩
  · next hc =>
    obtain rfl : n = 2 := hlength hc rfl
    exact ⟨cmdOpenEdit, fun _ => rfl⟩
  · next hc =>
    obtain rfl : n = 19 := hlength hc rfl
    exact ⟨gated false cmdWriteRule, fun _ => rfl⟩
  · next hc =>
    obtain rfl : n = 2 := hlength hc rfl
    exact ⟨gated false cmdClearRules, fun _ => rfl⟩
  · next hc =>
    obtain rfl : n = 1 := hlength hc rfl
    exact ⟨gated false cmdWriteMiss, fun _ => rfl⟩
  · next hc =>
    obtain rfl : n = 3 := hlength hc rfl
    exact ⟨cmdReadRules, fun _ => rfl⟩
  · next hc =>
    obtain rfl : n = 5 := hlength hc rfl
    split
    · exact ⟨gated false cmdCommitAt, fun _ => rfl⟩
    · exact ⟨gated false cmdCommitNow, fun _ => rfl⟩
  · next hc =>
    obtain rfl : n = 0 := hlength hc rfl
    exact ⟨gated true cmdAbandon, fun _ => rfl⟩
  · next hc =>
    obtain rfl : n = 17 := hlength hc rfl
    exact ⟨cmdWriteFlow, fun _ => rfl⟩
  · next hc =>
    obtain rfl : n = 2 := hlength hc rfl
    exact ⟨cmdReadFlow, fun _ => rfl⟩
  · next hc =>
    obtain rfl : n = 11 := hlength hc rfl
    exact ⟨cmdSetPort, fun _ => rfl⟩
  · next hc =>
    obtain rfl : n = 1 := hlength hc rfl
    exact ⟨cmdReadPort, fun _ => rfl⟩
  · next hc =>
    obtain rfl : n = 1 := hlength hc rfl
    exact ⟨cmdReleasePort, fun _ => rfl⟩
  · next hc =>
    obtain rfl : n = 7 := hlength hc rfl
    exact ⟨cmdSetNotices, fun _ => rfl⟩
  · next hc =>
    obtain rfl : n = 1 := hlength hc rfl
    split
    · exact ⟨cmdResetFull, fun _ => rfl⟩
    · exact ⟨cmdResetTraffic, fun _ => rfl⟩
  · exfalso
    simp_all [commandLengths]

/-- Settles O37: the row of an unknown code refuses; every other row looks at the length first. -/
theorem unknownCodesAndWrongLengths : Obligations.UnknownCodesAndWrongLengths := by
  refine ⟨fun r s h hcode => ?_, fun r n s h hcode hlen => ?_⟩
  · exact replied_of_taking (cmd := fun _ t => t.refuse .unknownCommand) h (commandRow_unknown r.args hcode) rfl rfl rfl
      rfl
  · obtain ⟨cmd, hexec⟩ := lengthFirst_commandRow r.args hcode
    exact replied_of_taking h rfl (hexec s) (u := s) (if_neg hlen) rfl rfl

/-- Settles O38: the results of IDENTIFY in the state that serves it. -/
theorem identifyAnswersTheGateway : Obligations.IdentifyAnswersTheGateway :=
  fun _ _ h => replied_accepted h rfl rfl rfl

/-! ### READ_COUNTERS (R165, R166) -/

section
variable {r : Taken} {s : State}

theorem cmdReadCountersPort_reads {p : Port} {clear : Bool} (hp : (byteAt r.args 0).toNat = p.val)
    (hc : clearArg (byteAt r.args 1) = some clear) (h2 : byteAt r.args 2 = 0) (h3 : byteAt r.args 3 = 0) :
    cmdReadCountersPort r s
      = (if clear then s.setPort p { s.port p with counters := zeroPortCounters } else s).accept
          (counterBytes (portCounterList (s.port p).counters)) := by
  unfold cmdReadCountersPort
  rw [portArg_of_eq hp, hc]
  exact if_pos ((noRange_iff _).2 ⟨h2, h3⟩)

theorem cmdReadCountersPort_refuses
    (h : 3 < (byteAt r.args 0).toNat ∨ 1 < (byteAt r.args 1).toNat ∨ byteAt r.args 2 ≠ 0 ∨ byteAt r.args 3 ≠ 0) :
    cmdReadCountersPort r s = s.refuse .badArgument := by
  unfold cmdReadCountersPort
  split
  · next p clear hp hc =>
    refine if_neg fun hrange => ?_
    obtain ⟨h2, h3⟩ := (noRange_iff _).1 hrange
    obtain h | h | h | h := h
    · rw [portArg_none h] at hp
      cases hp
    · rw [clearArg_none h] at hc
      cases hc
    · exact h h2
    · exact h h3
  · rfl

theorem cmdReadCountersPool_reads {clear : Bool} (hc : clearArg (byteAt r.args 1) = some clear)
    (h2 : byteAt r.args 2 = 0) (h3 : byteAt r.args 3 = 0) :
    cmdReadCountersPool r s = (if clear then s.clearPool else s).accept s.poolResults := by
  unfold cmdReadCountersPool
  rw [hc]
  exact if_pos ((noRange_iff _).2 ⟨h2, h3⟩)

theorem cmdReadCountersPool_refuses (h : 1 < (byteAt r.args 1).toNat ∨ byteAt r.args 2 ≠ 0 ∨ byteAt r.args 3 ≠ 0) :
    cmdReadCountersPool r s = s.refuse .badArgument := by
  unfold cmdReadCountersPool
  split
  · next clear hc =>
    refine if_neg fun hrange => ?_
    obtain ⟨h2, h3⟩ := (noRange_iff _).1 hrange
    obtain h | h | h := h
    · rw [clearArg_none h] at hc
      cases hc
    · exact h h2
    · exact h h3
  · rfl

theorem cmdReadCountersAgent_reads {clear : Bool} (hc : clearArg (byteAt r.args 1) = some clear)
    (h2 : byteAt r.args 2 = 0) (h3 : byteAt r.args 3 = 0) :
    cmdReadCountersAgent r s
      = (if clear then { s with agent := { s.agent with counters := zeroAgentCounters } } else s).accept
          (counterBytes (agentCounterList s.agent.counters)) := by
  unfold cmdReadCountersAgent
  rw [hc]
  exact if_pos ((noRange_iff _).2 ⟨h2, h3⟩)

theorem cmdReadCountersAgent_refuses (h : 1 < (byteAt r.args 1).toNat ∨ byteAt r.args 2 ≠ 0 ∨ byteAt r.args 3 ≠ 0) :
    cmdReadCountersAgent r s = s.refuse .badArgument := by
  unfold cmdReadCountersAgent
  split
  · next clear hc =>
    refine if_neg fun hrange => ?_
    obtain ⟨h2, h3⟩ := (noRange_iff _).1 hrange
    obtain h | h | h := h
    · rw [clearArg_none h] at hc
      cases hc
    · exact h h2
    · exact h h3
  · rfl

end

/-- The group values below 4 are ports; those that name no group go to the same row (R165, log 8). -/
theorem commandRow_readCounters_port {args : List Byte} (h : byteAt args 0 ∉ ([0x10, 0x20, 0x30] : List Byte)) :
    commandRow 0x02 args = .readCountersPort := by
  have hne : ∀ k ∈ ([0x10, 0x20, 0x30] : List Byte), (byteAt args 0).toNat ≠ k.toNat :=
    fun k hk he => h (BitVec.eq_of_toNat_eq he ▸ hk)
  show (match (byteAt args 0).toNat with
    | 0x10 => Instr.readCountersPool
    | 0x20 => .readCountersAgent
    | 0x30 => .readCountersRules
    | _ => .readCountersPort) = _
  split
  · next hb => exact absurd hb (hne 0x10 (by decide))
  · next hb => exact absurd hb (hne 0x20 (by decide))
  · next hb => exact absurd hb (hne 0x30 (by decide))
  · rfl

theorem group_of_port {b : Byte} {p : Port} (h : b.toNat = p.val) : b ∉ ([0x10, 0x20, 0x30] : List Byte) := by
  have hlt := p.isLt
  simp only [List.mem_cons, List.not_mem_nil, or_false]
  rintro (rfl | rfl | rfl) <;> simp at h <;> omega

theorem commandRow_readCounters {args : List Byte} :
    (byteAt args 0 = 0x10 → commandRow 0x02 args = .readCountersPool)
      ∧ (byteAt args 0 = 0x20 → commandRow 0x02 args = .readCountersAgent)
      ∧ (byteAt args 0 = 0x30 → commandRow 0x02 args = .readCountersRules) := by
  unfold commandRow
  refine ⟨fun h => ?_, fun h => ?_, fun h => ?_⟩ <;> rw [h] <;> rfl

/-- Settles O39: the answers of the two groups, and the row of the values that name none. -/
theorem portAndPoolCounters : Obligations.PortAndPoolCounters := by
  refine ⟨fun r p s h hp => ⟨fun h1 h2 h3 => ?_, fun h1 h2 h3 => ?_, fun hbad => ?_⟩,
    fun r s h hg => ⟨fun h1 h2 h3 => ?_, fun h1 h2 h3 => ?_, fun hbad => ?_⟩, fun r s h hport hgroup => ?_⟩
  · exact replied_accepted h (commandRow_readCounters_port (group_of_port hp)) rfl
      (cmdReadCountersPort_reads hp (clearArg_zero h1) h2 h3)
  · exact exists_replied_of_cmd h (commandRow_readCounters_port (group_of_port hp)) rfl
      (cmdReadCountersPort_reads hp (clearArg_one h1) h2 h3) rfl rfl
  · exact replied_refused h (commandRow_readCounters_port (group_of_port hp)) rfl
      (cmdReadCountersPort_refuses (.inr hbad))
  · have hhold : holdCode s.pool.hold = if s.pool.hold = .normal then 0 else 1 := by
      cases s.pool.hold <;> rfl
    rw [← hhold]
    exact replied_accepted h (commandRow_readCounters.1 hg) rfl (cmdReadCountersPool_reads (clearArg_zero h1) h2 h3)
  · have hhold : holdCode s.pool.hold = if s.pool.hold = .normal then 0 else 1 := by
      cases s.pool.hold <;> rfl
    obtain ⟨hrefs, hwf, hlen⟩ := reply_ready_of_carriesCommand h
    rw [← hhold]
    refine ⟨_, congrArg Host.Outcome.next (taking_carries (cmd := cmdReadCountersPool) h (commandRow_readCounters.1 hg)),
      carryOut_replied (u := { s with pool := { s.pool with minFree := s.freeCount, holdEntries := 0 } })
        ((checkLength_ok hlen).trans (cmdReadCountersPool_reads (s := s.served r) (clearArg_one h1) h2 h3)) hwf hrefs rfl⟩
  · exact replied_refused h (commandRow_readCounters.1 hg) rfl (cmdReadCountersPool_refuses hbad)
  · exact replied_refused h (commandRow_readCounters_port hgroup) rfl (cmdReadCountersPort_refuses (.inl hport))

end Sys2Proof.Reading
end

section
/-! The commands that read the Agent's and the rules' counters, the rules, the flows and the ports (09). -/

namespace Sys2Proof.Tables
open Sys2Proof.Machine Sys2Proof.BankController Sys2Proof.Reading

/-! ### Ranges of positions -/

theorem filter_range_eq {n a c : Nat} (h : a + c ≤ n) :
    (List.range n).filter (fun i => decide (a ≤ i ∧ i < a + c)) = (List.range c).map (a + ·) := by
  have hsplit : List.range n = List.range' 0 a ++ List.range' a c ++ List.range' (a + c) (n - (a + c)) := by
    have h1 := List.range'_append_1 (s := 0) (m := a) (n := c)
    have h2 := List.range'_append_1 (s := 0) (m := a + c) (n := n - (a + c))
    rw [Nat.zero_add] at h1 h2
    rw [h1, h2, List.range_eq_range', Nat.add_sub_cancel' h]
  have hbelow : (List.range' 0 a).filter (fun i => decide (a ≤ i ∧ i < a + c)) = [] :=
    List.filter_eq_nil_iff.2 fun i hi => by
      have := List.mem_range'_1.1 hi
      simp only [decide_eq_true_eq]
      omega
  have hinside : (List.range' a c).filter (fun i => decide (a ≤ i ∧ i < a + c)) = List.range' a c :=
    List.filter_eq_self.2 fun i hi => decide_eq_true (List.mem_range'_1.1 hi)
  have habove : (List.range' (a + c) (n - (a + c))).filter (fun i => decide (a ≤ i ∧ i < a + c)) = [] :=
    List.filter_eq_nil_iff.2 fun i hi => by
      have := List.mem_range'_1.1 hi
      simp only [decide_eq_true_eq]
      omega
  rw [hsplit, List.filter_append, List.filter_append, hbelow, hinside, habove, List.append_nil, List.nil_append,
    List.range'_eq_map_range]

theorem positions_eq (first count : Byte) : positions first count
    = (List.finRange 64).filter fun i => decide (first.toNat ≤ i.val ∧ i.val < first.toNat + count.toNat) := by
  unfold positions inRange
  simp only [Bool.decide_and]

/-- The entries of a table at the positions of a range, in order. -/
theorem positions_map {α : Type} (v : Vector α 64) (d : α) {first count : Byte}
    (h : first.toNat + count.toNat ≤ 64) : (positions first count).map (fun i => v.get i)
      = (List.range count.toNat).map fun k => v.toList.getD (first.toNat + k) d := by
  have hget : ∀ i : RulePos, v.get i = v.toList.getD i.val d := by
    intro i
    rw [get_eq_getElem, List.getD_eq_getElem _ _ (by simp)]
    simp
  have hvals : ((List.finRange 64).filter fun i => decide (first.toNat ≤ i.val ∧ i.val < first.toNat + count.toNat)).map
      Fin.val = (List.range count.toNat).map (first.toNat + ·) := by
    rw [← filter_range_eq h, ← List.map_coe_finRange_eq_range, List.filter_map]
    rfl
  have hmap := congrArg (List.map fun k => v.toList.getD k d) hvals
  rw [List.map_map, List.map_map] at hmap
  rw [positions_eq, List.map_congr_left fun i _ => hget i]
  exact hmap

/-! ### READ_COUNTERS of the rules (R19, R165) -/

section
variable {r : Taken} {s : State}

theorem cmdReadCountersRules_reads {clear : Bool} (hc : clearArg (byteAt r.args 1) = some clear)
    (h : rangeOk (byteAt r.args 2) (byteAt r.args 3) 16 = true) :
    cmdReadCountersRules r s
      = (if clear then s.clearHits (byteAt r.args 2) (byteAt r.args 3) else s).accept
          (counterBytes ((List.range (byteAt r.args 3).toNat).map fun k =>
            s.hits.toList.getD ((byteAt r.args 2).toNat + k) 0)) := by
  unfold cmdReadCountersRules
  rw [hc, ← positions_map s.hits 0 ((rangeOk_iff _ _ _).1 h).2.2.2]
  exact if_pos h

theorem cmdReadCountersRules_refuses
    (h : ¬ rangeOk (byteAt r.args 2) (byteAt r.args 3) 16 = true ∨ 1 < (byteAt r.args 1).toNat) :
    cmdReadCountersRules r s = s.refuse .badArgument := by
  unfold cmdReadCountersRules
  dsimp only
  split
  · next clear hc =>
    obtain h | h := h
    · exact if_neg h
    · rw [clearArg_none h] at hc
      cases hc
  · rfl

end

/-- Settles O40: the Agent's counters read in the state that serves the request; the rules' counters
position by position. -/
theorem agentAndHitCounters : Obligations.AgentAndHitCounters := by
  refine ⟨fun r s h hg => ⟨fun h1 h2 h3 => ?_, fun h1 h2 h3 => ?_, fun hbad => ?_⟩,
    fun r s h hg => ⟨fun hin h1 => ?_, fun hin h1 => ?_, fun hbad => ?_⟩⟩
  · exact replied_accepted h (commandRow_readCounters.2.1 hg) rfl (cmdReadCountersAgent_reads (clearArg_zero h1) h2 h3)
  · obtain ⟨hrefs, hwf, hlen⟩ := reply_ready_of_carriesCommand h
    obtain ⟨e, hkey, hused, htable⟩ := served_table s r
    refine ⟨_, congrArg Host.Outcome.next
      (taking_carries (cmd := cmdReadCountersAgent) h (commandRow_readCounters.2.1 hg)),
      carryOut_answered (u := s) (table := (s.served r).agent.table)
        ((checkLength_ok hlen).trans (cmdReadCountersAgent_reads (s := s.served r) (clearArg_one h1) h2 h3))
        ⟨fun x hx => otherRequesters_key hx, .inl ⟨e, hkey, hused, htable⟩⟩ hwf hrefs⟩
  · exact replied_refused h (commandRow_readCounters.2.1 hg) rfl (cmdReadCountersAgent_refuses hbad)
  · exact replied_accepted h (commandRow_readCounters.2.2 hg) rfl
      (cmdReadCountersRules_reads (clearArg_zero h1) ((rangeOk_iff _ _ _).2 hin))
  · have hreads := cmdReadCountersRules_reads (s := s.served r) (clearArg_one h1) ((rangeOk_iff _ _ _).2 hin)
    have hstate : (s.served r).clearHits (byteAt r.args 2) (byteAt r.args 3)
        = { s.clearHits (byteAt r.args 2) (byteAt r.args 3) with agent := (s.served r).agent } := by
      unfold State.clearHits
      rfl
    rw [if_pos rfl, hstate] at hreads
    obtain ⟨t, hexec, hreplied⟩ := exists_replied_of_cmd (u := s.clearHits (byteAt r.args 2) (byteAt r.args 3)) h
      (commandRow_readCounters.2.2 hg) rfl hreads (s.clearHits_pool _ _) (s.clearHits_localTime _ _)
    refine ⟨t, _, hexec, hreplied, ?_, fun i => ?_⟩
    · unfold State.clearHits
      rfl
    · rw [State.clearHits_get]
      unfold inRange
      simp only [Bool.and_eq_true, decide_eq_true_eq]
  · refine replied_refused h (commandRow_readCounters.2.2 hg) rfl (cmdReadCountersRules_refuses ?_)
    exact hbad.imp_left fun hout hok => hout ((rangeOk_iff _ _ _).1 hok)

/-! ### READ_RULES (R30, R172) -/

section
variable {r : Taken} {s : State}

theorem isMirroring_iff {c : Controller} : isMirroring c = true ↔ ∃ k e, c = .mirroring k e := by
  cases c with
  | mirroring k e => exact iff_of_true rfl ⟨k, e, rfl⟩
  | _ => exact iff_of_false nofun nofun

theorem missByte (m : MissAction) : missCode m = if m = .drop then 0 else 1 := by cases m <;> rfl

theorem cmdReadRules_active (h0 : byteAt r.args 0 = 0) (h : rangeOk (byteAt r.args 1) (byteAt r.args 2) 4 = true) :
    cmdReadRules r s = s.accept (s.activeRead (byteAt r.args 1) (byteAt r.args 2)) := by
  unfold cmdReadRules
  dsimp only
  rw [h0, h]
  rfl

theorem cmdReadRules_shadow (h1 : byteAt r.args 0 = 1) (hm : ∀ k e, s.ctrl ≠ .mirroring k e)
    (h : rangeOk (byteAt r.args 1) (byteAt r.args 2) 4 = true) :
    cmdReadRules r s
      = (s.renew r.key).accept ((s.renew r.key).shadowRead (byteAt r.args 1) (byteAt r.args 2)) := by
  have hnot : ¬ isMirroring s.ctrl = true := fun hmir => by
    obtain ⟨k, e, hke⟩ := isMirroring_iff.1 hmir
    exact hm k e hke
  unfold cmdReadRules
  dsimp only
  rw [h1, h, if_neg (by decide), if_neg (fun hmir => hnot hmir.2)]
  rfl

theorem cmdReadRules_mirroring (h1 : byteAt r.args 0 = 1) (hm : ∃ k e, s.ctrl = .mirroring k e) :
    cmdReadRules r s = s.refuse .mirroring := by
  unfold cmdReadRules
  dsimp only
  rw [h1, if_neg (by decide), if_pos ⟨rfl, isMirroring_iff.2 hm⟩]

theorem cmdReadRules_refuses (h : 1 < (byteAt r.args 0).toNat
      ∨ (¬ rangeOk (byteAt r.args 1) (byteAt r.args 2) 4 = true
        ∧ (byteAt r.args 0 = 0 ∨ ∀ k e, s.ctrl ≠ .mirroring k e))) :
    cmdReadRules r s = s.refuse .badArgument := by
  have hbadBank : 1 < (byteAt r.args 0).toNat → cmdReadRules r s = s.refuse .badArgument :=
    fun h => if_pos h
  by_cases hbank : 1 < (byteAt r.args 0).toNat
  · exact hbadBank hbank
  · obtain ⟨hrange, hfree⟩ := h.resolve_left hbank
    have hnot : ¬ (byteAt r.args 0 = 1 ∧ isMirroring s.ctrl = true) := by
      rintro ⟨h1, hmir⟩
      obtain ⟨k, e, hke⟩ := isMirroring_iff.1 hmir
      obtain h0 | hfree := hfree
      · exact absurd (h0.symm.trans h1) (by decide)
      · exact absurd hke (hfree k e)
    unfold cmdReadRules
    dsimp only
    rw [if_neg hbank, if_neg hnot, if_neg hrange]

/-- A renewal changes the lease's end alone (R26). -/
theorem renew_match (s : State) (k : Key) : s.renew k = match s.ctrl with
    | .editing h d _ =>
      if h = k then { s with ctrl := .editing h d (s.localTime + BitVec.ofNat 32 (d * 1000000)) } else s
    | _ => s := by
  unfold State.renew
  cases s.ctrl <;> rfl

theorem controllerCode_editing (k : Key) (d : Nat) (e : Instant) : controllerCode (.editing k d e) = 1 := rfl

theorem controllerCode_renew (s : State) (k : Key) : controllerCode (s.renew k).ctrl = controllerCode s.ctrl := by
  unfold State.renew
  split
  · next h d e hc =>
    split
    · rw [hc]
      exact (controllerCode_editing ..).trans (controllerCode_editing ..).symm
    · rfl
  · rfl

theorem renew_with_agent (s : State) (k : Key) (a : Agent) :
    ({ s with agent := a } : State).renew k = { s.renew k with agent := a } := by
  unfold State.renew
  dsimp only
  split
  · split <;> rfl
  · rfl

/-- A read of the shadow bank reports no lease time, so it reads the same after the renewal it makes (R26, R172). -/
theorem shadowRead_renew (s : State) (k : Key) (first count : Byte) :
    (s.renew k).shadowRead first count = s.shadowRead first count := by
  unfold State.shadowRead
  rw [controllerCode_renew, Frames.renew_frame] <;> rfl

end

/-- Settles O41: the two banks' reads, the MIRRORING refusal before the range. -/
theorem rulesAreRead : Obligations.RulesAreRead := by
  intro r s h
  refine ⟨fun h0 hin => ?_, fun h1 hin hm => ?_, fun h1 hm => ?_, fun hbad => ?_⟩
  · have hreads := cmdReadRules_active (s := s.served r) h0 ((rangeOk_iff _ _ _).2 hin)
    unfold State.activeRead at hreads
    rw [missByte, activeByte, positions_eq] at hreads
    exact replied_accepted h rfl rfl hreads
  · have hreads := cmdReadRules_shadow (s := s.served r) h1 hm ((rangeOk_iff _ _ _).2 hin)
    rw [shadowRead_renew, served_eq, renew_with_agent] at hreads
    unfold State.shadowRead at hreads
    rw [missByte, activeByte, positions_eq] at hreads
    obtain ⟨t, hexec, hreplied⟩ := exists_replied_of_cmd (u := s.renew r.key) h rfl rfl
      (by rw [served_eq]; exact hreads) (by rw [Frames.renew_frame]) (by rw [Frames.renew_frame])
    rw [renew_match] at hreplied
    exact ⟨t, hexec, hreplied⟩
  · exact replied_refused h rfl rfl (cmdReadRules_mirroring (s := s.served r) h1 hm)
  · refine replied_refused h rfl rfl (cmdReadRules_refuses (s := s.served r) ?_)
    exact hbad.imp_right fun hout => ⟨fun hok => hout.1 ((rangeOk_iff _ _ _).1 hok), hout.2⟩

/-! ### READ_FLOW and READ_PORT (R79, R139) -/

section
variable {r : Taken} {s : State}

theorem cmdReadFlow_reads {i : FlowIx} {clear : Bool} (hi : (byteAt r.args 0).toNat = i.val)
    (hc : clearArg (byteAt r.args 1) = some clear) :
    cmdReadFlow r s
      = (if clear then s.setFlow i (zeroFlowCounters (s.flow i)) else s).accept (s.flowResults (s.flow i)) := by
  unfold cmdReadFlow
  rw [flowArg_of_eq hi, hc]

theorem cmdReadFlow_refuses (h : 127 < (byteAt r.args 0).toNat ∨ 1 < (byteAt r.args 1).toNat) :
    cmdReadFlow r s = s.refuse .badArgument := by
  unfold cmdReadFlow
  split
  · next i clear hi hc =>
    obtain h | h := h
    · rw [flowArg_none h] at hi
      cases hi
    · rw [clearArg_none h] at hc
      cases hc
  · rfl

/-- An instant as it travels is its cell time, or 0 when there is none (R200). -/
theorem cellBytes_eq (s : State) (o : Option Instant) :
    s.cellBytes o = be32 (match o with | some a => a + s.offset | none => 0) := by
  cases o <;> rfl

theorem cmdReadPort_reads {p : Port} (hp : (byteAt r.args 0).toNat = p.val) :
    cmdReadPort r s = s.accept (s.portResults p) := by
  unfold cmdReadPort
  rw [portArg_of_eq hp]

theorem cmdReadPort_refuses (h : 3 < (byteAt r.args 0).toNat) : cmdReadPort r s = s.refuse .badArgument := by
  unfold cmdReadPort
  rw [portArg_none h]

/-- The quarantine time left as it travels (R139, log 18). -/
theorem quarantineLeft_eq (s : State) (x : PortRec) :
    BitVec.ofNat 16 (s.quarantineLeft x) = match x.link with
      | .quarantine e => if s.passed e then 0 else BitVec.ofNat 16 (((e - s.localTime).toNat + 999) / 1000)
      | _ => 0 := by
  unfold State.quarantineLeft State.msLeft
  cases x.link with
  | quarantine e =>
    dsimp only
    split <;> rfl
  | _ => rfl

end

/-- Settles O42: the two commands' answers, field by field as the results have them. -/
theorem flowsAndPortsAreRead : Obligations.FlowsAndPortsAreRead := by
  refine ⟨fun r i s h hi => ⟨fun h1 => ?_, fun h1 => ?_, fun hbad => ?_⟩, fun r s h hbad => ?_,
    fun r s h => ⟨fun p hp => ?_, fun hbad => ?_⟩⟩
  · have hreads := cmdReadFlow_reads (s := s.served r) hi (clearArg_zero h1)
    unfold State.flowResults at hreads
    rw [cellBytes_eq, cellBytes_eq] at hreads
    exact replied_accepted h rfl rfl hreads
  · have hreads := cmdReadFlow_reads (s := s.served r) hi (clearArg_one h1)
    unfold State.flowResults at hreads
    rw [cellBytes_eq, cellBytes_eq] at hreads
    exact exists_replied_of_cmd h rfl rfl hreads rfl rfl
  · exact replied_refused h rfl rfl (cmdReadFlow_refuses (.inr hbad))
  · exact replied_refused h rfl rfl (cmdReadFlow_refuses (.inl hbad))
  · have hreads := cmdReadPort_reads (s := s.served r) hp
    unfold State.portResults at hreads
    dsimp only at hreads
    rw [quarantineLeft_eq] at hreads
    exact replied_accepted h rfl rfl hreads
  · exact replied_refused h rfl rfl (cmdReadPort_refuses hbad)

end Sys2Proof.Tables
end

section
/-! The edit session's commands and ADJUST_TIME: the gate of R28, the writes to the shadow bank, COMMIT and the swap that
a step of the offset brings (02, 04). -/

namespace Sys2Proof.EditSession
open Sys2Proof.Machine Sys2Proof.BankController Sys2Proof.Reading Sys2Proof.Timers

/-! ### The gate (R28) -/

section
variable {r : Taken} {s : State} {cmd : Taken → State → Answer} {isAbandon : Bool}

theorem gated_refuses {st : Status} (h : editGate s.ctrl r.key isAbandon = some st) :
    gated isAbandon cmd r s = s.refuse st := by
  unfold gated
  rw [h]

theorem gated_of_editing {d : Nat} {e : Instant} (h : s.ctrl = .editing r.key d e) :
    gated isAbandon cmd r s = cmd r s := by
  have hgate : editGate s.ctrl r.key isAbandon = none := by
    rw [h]
    exact if_pos rfl
  unfold gated
  rw [hgate]

theorem editGate_of_other {c : Controller} {own k : Key} (hk : k ≠ own)
    (h : (∃ d e, c = .editing k d e) ∨ ∃ a, c = .scheduled k a) : editGate c own isAbandon = some .notHolder := by
  obtain ⟨d, e, rfl⟩ | ⟨a, rfl⟩ := h
  · exact if_neg hk
  · exact if_neg hk

end

/-- The row of an edit command looks at the length, then at the state and the holder (R28). -/
def Gated (row : Instr) (n : Nat) (isAbandon : Bool) : Prop :=
  ∃ cmd, ∀ s, exec row s = .next (s.taking row (State.carryOut (checkLength n (gated isAbandon cmd))))

theorem gated_commandRow {code : Byte} (args : List Byte) {n : Nat}
    (h : (code.toNat, n) ∈ [(0x11, 19), (0x12, 2), (0x13, 1), (0x15, 5), (0x16, 0)]) :
    Gated (commandRow code args) n (decide (code = 0x16)) := by
  simp only [List.mem_cons, Prod.mk.injEq, List.not_mem_nil, or_false] at h
  obtain ⟨hc, rfl⟩ | ⟨hc, rfl⟩ | ⟨hc, rfl⟩ | ⟨hc, rfl⟩ | ⟨hc, rfl⟩ := h
  · obtain rfl : code = 0x11 := BitVec.eq_of_toNat_eq hc
    exact ⟨cmdWriteRule, fun _ => rfl⟩
  · obtain rfl : code = 0x12 := BitVec.eq_of_toNat_eq hc
    exact ⟨cmdClearRules, fun _ => rfl⟩
  · obtain rfl : code = 0x13 := BitVec.eq_of_toNat_eq hc
    exact ⟨cmdWriteMiss, fun _ => rfl⟩
  · obtain rfl : code = 0x15 := BitVec.eq_of_toNat_eq hc
    have hrow : commandRow 0x15 args = if byteAt args 0 = 1 then .commitAt else .commitNow := rfl
    rw [hrow]
    split
    · exact ⟨cmdCommitAt, fun _ => rfl⟩
    · exact ⟨cmdCommitNow, fun _ => rfl⟩
  · obtain rfl : code = 0x16 := BitVec.eq_of_toNat_eq hc
    exact ⟨cmdAbandon, fun _ => rfl⟩

/-- Settles O44: every row of the five goes through the gate before its own checks. -/
theorem editCommandsNeedTheLease : Obligations.EditCommandsNeedTheLease := by
  intro r n s h hlen hcode
  obtain ⟨cmd, hexec⟩ := gated_commandRow r.args hcode
  have hrefused : ∀ st, editGate s.ctrl r.key (decide (r.code = 0x16)) = some st →
      ∃ t, exec (commandRow r.code r.args) s = .next t ∧ Replied s s t r st [] := fun st hgate =>
    replied_of_taking h rfl (hexec s) ((checkLength_ok hlen).trans (gated_refuses (s := s.served r) hgate)) rfl rfl
  refine ⟨fun hc => hrefused _ (by rw [hc]; rfl), fun k hk hother => hrefused _ (editGate_of_other hk hother),
    fun a hc hcode => hrefused _ ?_, fun k e hc => hrefused _ (by rw [hc]; rfl)⟩
  rw [hc, decide_eq_false hcode]
  exact if_pos rfl

/-! ### Writes to the shadow bank (R26, R29) -/

/-- A write accepted: the shadow bank is `b`, and the lease is renewed and reported. -/
theorem acceptWrite_setShadow {s : State} {k : Key} {d : Nat} {e : Instant} (hc : s.ctrl = .editing k d e) (h1 : 1 ≤ d)
    (h2 : d ≤ 600) (b : Bank) : (s.setShadow b).acceptWrite k =
      { state := { s.setShadow b with ctrl := .editing k d (s.localTime + BitVec.ofNat 32 (d * 1000000)) }
        status := .ok, results := leasedResults s.active d } := by
  unfold State.acceptWrite
  rw [State.renew_eq (s := s.setShadow b) hc]
  exact congrArg (Answer.mk _ .ok) ((s.setShadow b).leaseResults_leased k h1 h2)

/-- An edit command of the holder that writes the shadow bank, from its row to its reply. -/
theorem shadow_written {r : Taken} {s : State} {code : Byte} {n d : Nat} {e : Instant} {row : Instr}
    {cmd : Taken → State → Answer} {b : Bank} (h : s.carriesCommand r code n) (hrow : commandRow code r.args = row)
    (hexec : exec row s = .next (s.taking row (State.carryOut (checkLength n (gated false cmd)))))
    (hc : s.ctrl = .editing r.key d e) (h1 : 1 ≤ d) (h2 : d ≤ 600)
    (hcmd : cmd r (s.served r) = ((s.served r).setShadow b).acceptWrite r.key) :
    ∃ t u, exec row s = .next t ∧ Replied s u t r .ok (leasedResults s.active d)
      ∧ u = { s with banks := u.banks, ctrl := .editing r.key d (s.localTime + BitVec.ofNat 32 (d * 1000000)) }
      ∧ u.activeBank = s.activeBank ∧ u.shadowBank = b := by
  have hanswer : gated false cmd r (s.served r) = _ :=
    (gated_of_editing (s := s.served r) hc).trans (hcmd.trans (acceptWrite_setShadow (s := s.served r) hc h1 h2 b))
  obtain ⟨t, hnext, hreplied⟩ := exists_replied_of_cmd
    (u := { s.setShadow b with ctrl := .editing r.key d (s.localTime + BitVec.ofNat 32 (d * 1000000)) })
    h hrow hexec hanswer rfl rfl
  exact ⟨t, _, hnext, hreplied, rfl, s.activeBank_setShadow b, s.shadowBank_setShadow b⟩

theorem edit_refused {r : Taken} {s : State} {code : Byte} {n d : Nat} {e : Instant} {row : Instr} {st : Status}
    {cmd : Taken → State → Answer} (h : s.carriesCommand r code n) (hrow : commandRow code r.args = row)
    (hexec : exec row s = .next (s.taking row (State.carryOut (checkLength n (gated false cmd)))))
    (hc : s.ctrl = .editing r.key d e) (hcmd : cmd r (s.served r) = (s.served r).refuse st) :
    ∃ t, exec row s = .next t ∧ Replied s s t r st [] :=
  replied_refused h hrow hexec ((gated_of_editing (s := s.served r) hc).trans hcmd)

section
variable {r : Taken} {s : State}

theorem posArg_of_eq {b : Byte} {i : RulePos} (h : b.toNat = i.val) : posArg b = some i := by
  have hlt : b.toNat < 64 := h ▸ i.isLt
  unfold posArg
  rw [dif_pos hlt]
  exact congrArg some (Fin.ext h)

theorem posArg_none {b : Byte} (h : 63 < b.toNat) : posArg b = none := dif_neg (by omega)

theorem writable_iff (m : RuleImage) : (!m.valid || ruleImageOk m) = true ↔ m.valid = false ∨ ruleImageOk m = true := by
  rw [Bool.or_eq_true, Bool.not_eq_true']

theorem cmdWriteRule_writes {i : RulePos} (hi : (byteAt r.args 0).toNat = i.val)
    (hm : (ruleImageOf (r.args.drop 1)).valid = false ∨ ruleImageOk (ruleImageOf (r.args.drop 1)) = true) :
    cmdWriteRule r s = (s.setShadow { s.shadowBank with
      entries := s.shadowBank.entries.set i (ruleOfImage (ruleImageOf (r.args.drop 1))) }).acceptWrite r.key := by
  unfold cmdWriteRule
  rw [posArg_of_eq hi]
  exact if_pos ((writable_iff _).2 hm)

theorem cmdWriteRule_refuses (h : 63 < (byteAt r.args 0).toNat ∨ ((ruleImageOf (r.args.drop 1)).valid = true
      ∧ ¬ ruleImageOk (ruleImageOf (r.args.drop 1)) = true)) : cmdWriteRule r s = s.refuse .badArgument := by
  unfold cmdWriteRule
  dsimp only
  split
  · next i hi =>
    refine if_neg fun hm => ?_
    obtain h | ⟨hvalid, hbad⟩ := h
    · rw [posArg_none h] at hi
      cases hi
    · obtain hinvalid | hok := (writable_iff _).1 hm
      · exact absurd (hinvalid.symm.trans hvalid) Bool.noConfusion
      · exact hbad hok
  · rfl

theorem cmdClearRules_clears (h : rangeOk (byteAt r.args 0) (byteAt r.args 1) 64 = true) :
    cmdClearRules r s = (s.clearShadow (byteAt r.args 0).toNat (byteAt r.args 1).toNat).acceptWrite r.key := if_pos h

theorem cmdClearRules_refuses (h : ¬ rangeOk (byteAt r.args 0) (byteAt r.args 1) 64 = true) :
    cmdClearRules r s = s.refuse .badArgument := if_neg h

theorem missArg_of_le {b : Byte} (h : b.toNat ≤ 1) : missArg b = some (if b = 0 then .drop else .flood) := by
  unfold missArg
  by_cases h0 : b = 0
  · rw [if_pos h0, if_pos h0]
  · have h1 : b = 1 := by
      apply BitVec.eq_of_toNat_eq
      have : b.toNat ≠ 0 := fun he => h0 (BitVec.eq_of_toNat_eq he)
      show b.toNat = 1
      omega
    rw [if_neg h0, if_pos h1, if_neg h0]

theorem missArg_none {b : Byte} (h : 1 < b.toNat) : missArg b = none := by
  unfold missArg
  rw [if_neg, if_neg]
  · rintro rfl
    exact absurd h (by decide)
  · rintro rfl
    exact absurd h (by decide)

theorem cmdWriteMiss_writes (h : (byteAt r.args 0).toNat ≤ 1) :
    cmdWriteMiss r s = (s.setShadow { s.shadowBank with
      miss := if byteAt r.args 0 = 0 then .drop else .flood }).acceptWrite r.key := by
  unfold cmdWriteMiss
  rw [missArg_of_le h]

theorem cmdWriteMiss_refuses (h : 1 < (byteAt r.args 0).toNat) : cmdWriteMiss r s = s.refuse .badArgument := by
  unfold cmdWriteMiss
  rw [missArg_none h]

end

/-- The bound flow of an accepted image is the one its index names (R15, R17). -/
theorem flow_of_image {m : RuleImage} (h : m.hasFlow = true → m.flowIx.toNat < 128) :
    (if m.hasFlow then flowArg m.flowIx else none)
      = if m.hasFlow then some (Fin.ofNat 128 m.flowIx.toNat) else none := by
  split
  · next hf => exact flowArg_of_lt (h hf)
  · rfl

/-- Settles O45: each of the three is an `acceptWrite` of the shadow bank it makes. -/
theorem editsWriteTheShadow : Obligations.EditsWriteTheShadow := by
  refine ⟨fun r d e s h hc h1 h2 => ⟨fun i hi hm => ?_, fun hbad => ?_⟩,
    fun r d e s h hc h1 h2 => ⟨fun hf hn hsum => ?_, fun hbad => ?_⟩,
    fun r d e s h hc h1 h2 => ⟨fun hm => ?_, fun hbad => ?_⟩⟩
  · rw [← ruleImageOk_iff] at hm
    obtain ⟨t, u, hexec, hreplied, hu, hactive, hshadow⟩ := shadow_written h rfl rfl hc h1 h2
      (cmdWriteRule_writes (s := s.served r) hi hm)
    refine ⟨t, u, hexec, hreplied, hu, hactive, by rw [hshadow]; rfl, fun j => ?_⟩
    rw [hshadow]
    refine (get_set s.shadowBank.entries i j _).trans ?_
    split
    · unfold ruleOfImage
      split
      · next hvalid =>
        obtain hinvalid | hok := hm
        · exact absurd (hinvalid.symm.trans hvalid) Bool.noConfusion
        · rw [flow_of_image ((ruleImageOk_iff _).1 hok).2.2.2.2.2.2.2.1]
      · rfl
    · rfl
  · refine edit_refused h rfl rfl hc (cmdWriteRule_refuses (s := s.served r) ?_)
    exact hbad.imp_right fun hm => ⟨hm.1, fun hok => hm.2 ((ruleImageOk_iff _).1 hok)⟩
  · obtain ⟨t, u, hexec, hreplied, hu, hactive, hshadow⟩ := shadow_written h rfl rfl hc h1 h2
      (cmdClearRules_clears (s := s.served r) ((rangeOk_iff _ _ _).2 ⟨hf, hn, by omega, hsum⟩))
    refine ⟨t, u, hexec, hreplied, hu, hactive, by rw [hshadow]; rfl, fun j => ?_⟩
    rw [hshadow]
    exact get_ofFn _ j
  · refine edit_refused h rfl rfl hc (cmdClearRules_refuses (s := s.served r) fun hok => ?_)
    have := (rangeOk_iff _ _ _).1 hok
    omega
  · obtain ⟨t, u, hexec, hreplied, hu, hactive, hshadow⟩ := shadow_written h rfl rfl hc h1 h2
      (cmdWriteMiss_writes (s := s.served r) hm)
    exact ⟨t, u, hexec, hreplied, hu, hactive, hshadow⟩
  · exact edit_refused h rfl rfl hc (cmdWriteMiss_refuses (s := s.served r) hbad)

/-! ### COMMIT (R31 to R33, R173) -/

/-- The answer to a command that has just swapped the banks for the requester it serves (R33). -/
theorem acceptEdit_swap {s : State} {k : Key} (hholder : holderOf s.ctrl = some k) :
    s.swap.acceptEdit = { state := { s.swappedFor k with agent := (s.unprotect k).agent }, status := .ok
                          results := noLeaseResults 3 (s.active + 1) } := by
  rw [State.swap_eq hholder]
  exact congrArg (Answer.mk _ .ok) (leaseResults_of_mirroring rfl)

/-- A COMMIT of the holder that swaps at once, from its row to its reply: the end of the holder's protection leaves no
trace in the table (R33, R152). -/
theorem swapped_replied {r : Taken} {s : State} {code : Byte} {n d : Nat} {e : Instant} {row : Instr}
    {cmd : Taken → State → Answer} (h : s.carriesCommand r code n) (hrow : commandRow code r.args = row)
    (hexec : exec row s = .next (s.taking row (State.carryOut (checkLength n (gated false cmd)))))
    (hc : s.ctrl = .editing r.key d e) (hcmd : cmd r (s.served r) = (s.served r).swap.acceptEdit) :
    ∃ t, exec row s = .next t ∧ Replied s (s.swappedFor r.key) t r .ok (noLeaseResults 3 (s.active + 1)) := by
  obtain ⟨hrefs, hwf, hlen⟩ := reply_ready_of_carriesCommand h
  have hholder : holderOf (s.served r).ctrl = some r.key := congrArg holderOf hc
  refine ⟨s.carryOut (checkLength n (gated false cmd)) r, by rw [hexec, taking_carries h hrow], ?_⟩
  exact carryOut_answered (u := s.swappedFor r.key) ((checkLength_ok hlen).trans
    ((gated_of_editing (s := s.served r) hc).trans (hcmd.trans (acceptEdit_swap hholder))))
    (servedTable_unprotect s r) hwf hrefs

/-- A scheduled commit has no lease time to report (R167). -/
theorem leaseResults_of_scheduled (s : State) (k : Key) (a : Instant) :
    ({ s with ctrl := .scheduled k a } : State).leaseResults = noLeaseResults 2 s.active := by
  unfold State.leaseResults noLeaseResults
  rw [← activeByte]
  rfl

section
variable {r : Taken} {s : State}

theorem cmdCommitAt_reached (h : activationReached (wordAt r.args 1) s.cellTime = true) :
    cmdCommitAt r s = s.swap.acceptEdit := if_pos h

theorem cmdCommitAt_schedules (h : ¬ activationReached (wordAt r.args 1) s.cellTime = true)
    (hwindow : (wordAt r.args 1 - s.cellTime).toNat ≤ 60000000) :
    cmdCommitAt r s = { state := { s with ctrl := .scheduled r.key (wordAt r.args 1) }, status := .ok
                        results := noLeaseResults 2 s.active } :=
  (if_neg h).trans ((if_pos hwindow).trans (congrArg (Answer.mk _ .ok) (leaseResults_of_scheduled s _ _)))

theorem cmdCommitAt_refuses (h : ¬ activationReached (wordAt r.args 1) s.cellTime = true)
    (hwindow : ¬ (wordAt r.args 1 - s.cellTime).toNat ≤ 60000000) :
    cmdCommitAt r s = s.refuse .badArgument := (if_neg h).trans (if_neg hwindow)

end

theorem commitRow_at {args : List Byte} (h : byteAt args 0 = 1) : commandRow 0x15 args = .commitAt := if_pos h

theorem commitRow_now {args : List Byte} (h : byteAt args 0 ≠ 1) : commandRow 0x15 args = .commitNow := if_neg h

/-- Settles O46: the mode gives the row, and the instant's place against cell time the branch of COMMIT AT. -/
theorem commitsSwapOrSchedule : Obligations.CommitsSwapOrSchedule := by
  refine ⟨fun r d e s h hc => ⟨fun h0 => ?_, fun h1 => ?_⟩, fun r d e s h h1 hc => ?_⟩
  · have hrow : commandRow 0x15 r.args = .commitNow := commitRow_now (by rw [h0]; decide)
    exact swapped_replied h hrow rfl hc (if_pos h0)
  · have hne : ∀ b : Byte, b.toNat ≤ 1 → byteAt r.args 0 ≠ b := fun b hb heq => by rw [heq] at h1; omega
    exact edit_refused h (commitRow_now (hne 1 (by decide))) rfl hc (if_neg (hne 0 (by decide)))
  · have hreached := activationReached_iff (wordAt r.args 1) (s.served r).cellTime
    have htime : (s.served r).cellTime = s.cellTime := rfl
    refine ⟨fun hpast => ?_, fun hfrom hto => ?_, fun hfrom hto => ?_⟩
    · exact swapped_replied h (commitRow_at h1) rfl hc (cmdCommitAt_reached (hreached.2 hpast))
    · refine exists_replied_of_cmd (u := { s with ctrl := .scheduled r.key (wordAt r.args 1) }) h (commitRow_at h1) rfl
        ((gated_of_editing (s := s.served r) hc).trans (cmdCommitAt_schedules (fun hr => ?_) hto)) rfl rfl
      have := hreached.1 hr
      rw [htime] at this
      omega
    · refine edit_refused h (commitRow_at h1) rfl hc (cmdCommitAt_refuses (fun hr => ?_) (by rw [htime]; omega))
      have := hreached.1 hr
      rw [htime] at this
      omega

/-! ### ADJUST_TIME (R35, R67, R164) -/

section
variable {s : State} {step : BitVec 32}

theorem adjustOffset_steps
    (h : ∀ k a, s.ctrl = .scheduled k a → 1 ≤ (a - ({ s with offset := s.offset + step } : State).cellTime).toNat
      ∧ (a - ({ s with offset := s.offset + step } : State).cellTime).toNat < 2 ^ 31) :
    s.adjustOffset step = { s with offset := s.offset + step } := by
  refine if_neg fun hdue => ?_
  cases hc : s.ctrl with
  | free | editing | mirroring =>
    rw [State.activationDue, hc] at hdue
    cases hdue
  | scheduled k a =>
    have hreached := (activationDue_iff (s := { s with offset := s.offset + step }) hc).1 hdue
    have hahead := h k a hc
    omega

theorem adjustOffset_swaps {k : Key} {a : Instant} (hc : s.ctrl = .scheduled k a)
    (h : (a - ({ s with offset := s.offset + step } : State).cellTime).toNat = 0
      ∨ 2 ^ 31 ≤ (a - ({ s with offset := s.offset + step } : State).cellTime).toNat) :
    s.adjustOffset step = { ({ s with offset := s.offset + step } : State).swappedFor k with
      agent := (s.unprotect k).agent } :=
  (if_pos ((activationDue_iff (s := { s with offset := s.offset + step }) hc).2 h)).trans
    (State.swap_eq (s := { s with offset := s.offset + step }) (by show holderOf s.ctrl = _; rw [hc]; rfl))

end

/-- The end of the protection of requester `k` in the table of a taking: the other requesters as R152 has it, the served
one used just now whoever `k` is (R148). -/
theorem servedTable_unprotect_of (s : State) (r : Taken) (k : Key) :
    servedTable r.key s.localTime
      ((s.otherRequesters r.key).map fun e => if e.key = k then { e with lastUsed := s.localTime } else e)
      ((s.served r).unprotect k).agent.table := by
  obtain ⟨e, hkey, hused, htable⟩ := served_table s r
  refine ⟨fun x hx => ?_, .inl ⟨e, hkey, hused, ?_⟩⟩
  · obtain ⟨y, hy, rfl⟩ := List.mem_map.1 hx
    have hother : y.key ≠ r.key := otherRequesters_key hy
    split <;> exact hother
  · have hself : (if e.key = k then { e with lastUsed := s.localTime } else e) = e := by
      rw [← hused]
      exact ite_self e
    show (s.served r).agent.table.map _ = _
    rw [htable, List.map_append, List.map_singleton]
    exact congrArg (fun x => _ ++ [x]) hself

/-- Settles O48: with the step of the offset a scheduled activation is reached, and swapped for its holder, or not. -/
theorem adjustTimeStepsTheOffset : Obligations.AdjustTimeStepsTheOffset := by
  intro r s h
  refine ⟨fun hstep => ?_, fun hstep hahead => ?_, fun k a hstep hc hahead => ?_⟩
  · exact replied_refused h rfl rfl (if_pos hstep)
  · refine exists_replied_of_cmd (u := { s with offset := s.offset + wordAt r.args 0 }) h rfl rfl ?_ rfl rfl
    refine (if_neg hstep).trans ?_
    rw [adjustOffset_steps (s := s.served r) hahead]
    rfl
  · obtain ⟨hrefs, hwf, hlen⟩ := reply_ready_of_carriesCommand h
    refine ⟨s.carryOut (checkLength 4 cmdAdjustTime) r, congrArg _ (taking_carries h rfl), ?_⟩
    refine carryOut_answered (u := ({ s with offset := s.offset + wordAt r.args 0 } : State).swappedFor k)
      ((checkLength_ok hlen).trans ((if_neg hstep).trans ?_)) (servedTable_unprotect_of s r k) hwf hrefs
    rw [adjustOffset_swaps (s := s.served r) hc hahead]
    rfl

end Sys2Proof.EditSession
end

section
/-! The commands that set a flow, a port and the notices, and RELEASE_PORT: each check, the state an accepted command
leaves, and its reply (09). -/

namespace Sys2Proof.Configuring
open Sys2Proof.Machine Sys2Proof.BankController Sys2Proof.Reading Sys2Proof.PortMoves

/-! ### WRITE_FLOW (R77, R78, R93) -/

section
variable {r : Taken} {s : State} {i : FlowIx}

theorem cmdWriteFlow_clears (hi : (byteAt r.args 0).toNat = i.val) (h0 : byteAt r.args 1 = 0) :
    cmdWriteFlow r s = (s.setFlow i (clearedFlow s.localTime)).accept [0] := by
  unfold cmdWriteFlow
  rw [flowArg_of_eq hi]
  exact if_pos h0

theorem cmdWriteFlow_arms (hi : (byteAt r.args 0).toNat = i.val) (h1 : byteAt r.args 1 = 1)
    (hm : flowImageOk (flowImageOf (r.args.drop 2)) = true) :
    cmdWriteFlow r s = (s.setFlow i (armedFlow (flowConfigOf (flowImageOf (r.args.drop 2))) s.localTime)).accept [1] := by
  unfold cmdWriteFlow
  rw [flowArg_of_eq hi]
  exact (if_neg (by rw [h1]; decide)).trans (if_pos ⟨h1, hm⟩)

theorem cmdWriteFlow_refuses (h0 : byteAt r.args 1 ≠ 0)
    (h1 : ¬ (byteAt r.args 1 = 1 ∧ flowImageOk (flowImageOf (r.args.drop 2)) = true)) :
    cmdWriteFlow r s = s.refuse .badArgument := by
  unfold cmdWriteFlow
  split
  · exact (if_neg h0).trans (if_neg h1)
  · rfl

theorem cmdWriteFlow_noFlow (h : 127 < (byteAt r.args 0).toNat) : cmdWriteFlow r s = s.refuse .badArgument := by
  unfold cmdWriteFlow
  rw [flowArg_none h]

end

/-- Settles O49: the initial state's byte gives the branch, and the image's ranges the acceptance. -/
theorem writeFlowSetsTheEntry : Obligations.WriteFlowSetsTheEntry := by
  intro r s h
  dsimp only
  rw [← flowImageOk_iff]
  refine ⟨fun i hi => ⟨fun h0 => ?_, fun h1 hm => ?_, fun hbad => ?_⟩, fun hi => ?_⟩
  · exact exists_replied_of_cmd (u := s.setFlow i (clearedFlow s.localTime)) h rfl rfl
      (cmdWriteFlow_clears (s := s.served r) hi h0) rfl rfl
  · exact exists_replied_of_cmd
      (u := s.setFlow i (armedFlow (flowConfigOf (flowImageOf (r.args.drop 2))) s.localTime)) h rfl rfl
      (cmdWriteFlow_arms (s := s.served r) hi h1 hm) rfl rfl
  · refine replied_refused h rfl rfl (cmdWriteFlow_refuses (s := s.served r) (fun h0 => ?_) fun h1 => ?_)
    · rw [h0] at hbad
      exact hbad.elim (by decide) fun hb => absurd hb.1 (by decide)
    · rw [h1.1] at hbad
      exact hbad.elim (by decide) fun hb => hb.2 h1.2
  · exact replied_refused h rfl rfl (cmdWriteFlow_noFlow (s := s.served r) hi)

/-! ### A port moved by a command, and the reply after it -/

/-- A command that moves one port, in the state that serves it, moves it alike in the state that takes it, and its reply
comes after the pool's decision (R100, R104, R154). -/
theorem replied_of_released {s u v : State} {r : Taken} {code : Byte} {n : Nat} {row : Instr}
    {cmd : Taken → State → Answer} {st : Status} {results : List Byte} {p : Port} {x : PortRec} {bs : List BufId}
    {nt : NoticeUnit} (h : s.carriesCommand r code n) (hrow : commandRow code r.args = row)
    (hexec : exec row s = .next (s.taking row (State.carryOut (checkLength n cmd))))
    (hcmd : cmd r (s.served r) = { state := v, status := st, results := results })
    (hu : Released s u p x bs nt) (hv : Released (s.served r) v p x bs nt) (hown : r.buf ∉ bs) :
    ∃ t, exec row s = .next t ∧ Replied s u t r st results := by
  obtain ⟨hrefs, hwf, hlen⟩ := reply_ready_of_carriesCommand h
  refine ⟨s.carryOut (checkLength n cmd) r, by rw [hexec, taking_carries h hrow], ?_⟩
  refine carryOut_replied ((checkLength_ok hlen).trans ?_) (hu.wf hwf) (by rw [hu.buf_keep hown]; exact hrefs)
    hu.localTime
  rw [hcmd, Released.with_agent (a := (s.served r).agent) hu hv]

/-! ### SET_PORT (R138, R177 to R179) -/

/-- Lockout: no port left enabled and accepting, or the request's own port not left so (R178). -/
theorem lockedOut_iff (s : State) (own p : Port) (c : PortConfig) :
    s.lockedOut own p c = false ↔
      ((c.enable = true ∧ c.accepts = true)
        ∨ ∃ q, q ≠ p ∧ (s.port q).cfg.enable = true ∧ (s.port q).cfg.accepts = true)
      ∧ (own = p → c.enable = true ∧ c.accepts = true) := by
  unfold State.lockedOut
  rw [Bool.or_eq_false_iff, Bool.not_eq_false', List.any_eq_true]
  refine and_congr ⟨fun ⟨q, _, hq⟩ => ?_, fun hq => ?_⟩ ?_
  · by_cases hqp : q = p
    · rw [if_pos hqp, Bool.and_eq_true] at hq
      exact .inl hq
    · rw [if_neg hqp, Bool.and_eq_true] at hq
      exact .inr ⟨q, hqp, hq⟩
  · obtain hc | ⟨q, hqp, hq⟩ := hq
    · exact ⟨p, List.mem_finRange p, by rw [if_pos rfl, Bool.and_eq_true]; exact hc⟩
    · exact ⟨q, List.mem_finRange q, by rw [if_neg hqp, Bool.and_eq_true]; exact hq⟩
  · rw [Bool.and_eq_false_iff, Bool.not_eq_false', Bool.and_eq_true, beq_eq_false_iff_ne]
    tauto

section
variable {r : Taken} {s : State} {p : Port}

theorem cmdSetPort_configures (hp : (byteAt r.args 0).toNat = p.val)
    (hm : portImageOk (portImageOf (r.args.drop 1)) = true)
    (hl : s.lockedOut r.port p (portConfigOf (portImageOf (r.args.drop 1))) = false) :
    cmdSetPort r s = (s.applyConfig p (portConfigOf (portImageOf (r.args.drop 1)))).accept
      ((s.applyConfig p (portConfigOf (portImageOf (r.args.drop 1)))).portResults p) := by
  unfold cmdSetPort
  rw [portArg_of_eq hp]
  exact (if_pos hm).trans (if_neg (by rw [hl]; exact Bool.false_ne_true))

theorem cmdSetPort_locks (hp : (byteAt r.args 0).toNat = p.val)
    (hm : portImageOk (portImageOf (r.args.drop 1)) = true)
    (hl : ¬ s.lockedOut r.port p (portConfigOf (portImageOf (r.args.drop 1))) = false) :
    cmdSetPort r s = s.refuse .lockout := by
  unfold cmdSetPort
  rw [portArg_of_eq hp]
  exact (if_pos hm).trans (if_pos (eq_true_of_ne_false hl))

theorem cmdSetPort_refuses (h : 3 < (byteAt r.args 0).toNat ∨ ¬ portImageOk (portImageOf (r.args.drop 1)) = true) :
    cmdSetPort r s = s.refuse .badArgument := by
  unfold cmdSetPort
  dsimp only
  split
  · next q hq =>
    refine if_neg (h.resolve_left fun hp => ?_)
    rw [portArg_none hp] at hq
    cases hq
  · rfl

end

/-- The results of the port commands are of the port and the time alone (R139). -/
theorem portResults_of_agent {u v : State} {a : Agent} (h : v = { u with agent := a }) (p : Port) :
    v.portResults p = u.portResults p := by
  rw [h]
  rfl

/-- Settles O50: the image's ranges, the lockout, and the configuration taken in the manual's order. -/
theorem setPortStoresAndMoves : Obligations.SetPortStoresAndMoves := by
  refine ⟨fun r p s h hp hown => ?_, fun r s h hp => ?_⟩
  · dsimp only
    rw [← portImageOk_iff]
    refine ⟨fun hm hopen hkeeps => ?_, fun hm hshut => ?_, fun hm => ?_⟩
    · have hl : (s.served r).lockedOut r.port p (portConfigOf (portImageOf (r.args.drop 1))) = false :=
        (lockedOut_iff s r.port p _).2 ⟨hopen, hkeeps⟩
      have hcmd := cmdSetPort_configures (s := s.served r) hp hm hl
      generalize portConfigOf (portImageOf (r.args.drop 1)) = c at hcmd
      have hu := released_applyConfig s p c
      have hv := released_applyConfig (s.served r) p c
      rw [portResults_of_agent (hu.with_agent hv) p] at hcmd
      obtain ⟨t, hexec, hreplied⟩ :=
        replied_of_released h rfl rfl hcmd hu hv fun hb => hown (configured_refs _ _ _ _ _ _ hb)
      exact ⟨t, _, hexec, hu, hreplied⟩
    · refine replied_refused h rfl rfl (cmdSetPort_locks (s := s.served r) hp hm fun hl => hshut ?_)
      exact (lockedOut_iff s r.port p _).1 hl
    · exact replied_refused h rfl rfl (cmdSetPort_refuses (s := s.served r) (.inr hm))
  · exact replied_refused h rfl rfl (cmdSetPort_refuses (s := s.served r) (.inl hp))

/-! ### RELEASE_PORT (R135, R181) -/

section
variable {r : Taken} {s : State} {p : Port}

theorem cmdReleasePort_releases (hp : (byteAt r.args 0).toNat = p.val) (hq : (s.port p).isQuarantine = true) :
    cmdReleasePort r s = ((s.endQuarantine p).settle s).accept (((s.endQuarantine p).settle s).portResults p) := by
  unfold cmdReleasePort
  rw [portArg_of_eq hp]
  exact if_pos hq

theorem cmdReleasePort_badState (hp : (byteAt r.args 0).toNat = p.val) (hq : (s.port p).isQuarantine = false) :
    cmdReleasePort r s = s.refuse .badState := by
  unfold cmdReleasePort
  rw [portArg_of_eq hp]
  exact if_neg (by rw [hq]; exact Bool.false_ne_true)

theorem cmdReleasePort_refuses (hp : 3 < (byteAt r.args 0).toNat) : cmdReleasePort r s = s.refuse .badArgument := by
  unfold cmdReleasePort
  rw [portArg_none hp]

end

theorem rxRefs_held {x : PortRec} {b : BufId} (h : b ∈ rxRefs x) : b ∈ x.held :=
  List.mem_append_left _ (List.mem_append_left _ h)

/-! ### SET_NOTICES (R182, R193) -/

/-- A field that fits its low bits is zeroes before them. -/
theorem zeroes_append_low {m n : Nat} {x : BitVec (m + n)} (h : x.toNat < 2 ^ n) : 0#m ++ x.extractLsb' 0 n = x := by
  apply BitVec.eq_of_getLsbD_eq
  intro i hi
  rw [BitVec.getLsbD_append]
  split
  · next hlow => simp [hlow]
  · next hhigh => rw [BitVec.getLsbD_zero, getLsbD_of_toNat_lt x h (Nat.le_of_not_lt hhigh)]

theorem setWidth_eq_extract {n k : Nat} (x : BitVec n) : x.setWidth k = x.extractLsb' 0 k := by
  apply BitVec.eq_of_getLsbD_eq
  intro i hi
  simp [hi]

theorem maskHigh_iff (m : Half) : m.extractLsb' 12 4 = 0 ↔ m.toNat < 4096 := by
  rw [← BitVec.toNat_inj, BitVec.extractLsb'_toNat, Nat.shiftRight_eq_div_pow]
  have := m.isLt
  show m.toNat / 4096 % 16 = 0 ↔ _
  omega

/-- Settings that pass their checks travel back as the arguments that brought them (R182, R200). -/
theorem noticeConfigBytes_of_args {l : List Byte} (hl : l.length = 7) {p : Port} (hp : (byteAt l 0).toNat = p.val)
    (hprio : (byteAt l 4).toNat ≤ 7) (hmask : (halfAt l 5).toNat < 4096) :
    noticeConfigBytes { dest := p, tag := tagAt l 1, prio := (byteAt l 4).extractLsb' 0 3
                        mask := (halfAt l 5).extractLsb' 0 12 } = l := by
  have hdest : byteOf p.val = byteAt l 0 := by
    rw [← hp]
    exact BitVec.eq_of_toNat_eq (Nat.mod_eq_of_lt (byteAt l 0).isLt)
  have hprio' : 0#5 ++ (byteAt l 4).extractLsb' 0 3 = byteAt l 4 := zeroes_append_low (m := 5) (n := 3) (by omega)
  have hmask' : 0#4 ++ (halfAt l 5).extractLsb' 0 12 = halfAt l 5 := zeroes_append_low (m := 4) (n := 12) hmask
  unfold noticeConfigBytes
  dsimp only
  rw [hdest, hprio', hmask']
  unfold tagAt halfAt
  rw [be24_append, be16_append]
  match l, hl with
  | [a, b, c, d, e, f, g], _ => rfl

section
variable {r : Taken} {s : State} {p : Port}

theorem cmdSetNotices_sets (hl : r.args.length = 7) (hp : (byteAt r.args 0).toNat = p.val)
    (hprio : (byteAt r.args 4).toNat ≤ 7) (hmask : (halfAt r.args 5).toNat < 4096) :
    cmdSetNotices r s = { s with notices := { s.notices with cfg :=
      { dest := p, tag := tagAt r.args 1, prio := (byteAt r.args 4).setWidth 3
        mask := (halfAt r.args 5).setWidth 12 } } }.accept r.args := by
  unfold cmdSetNotices
  rw [portArg_of_eq hp, setWidth_eq_extract (byteAt r.args 4), setWidth_eq_extract (halfAt r.args 5)]
  refine (if_pos ⟨hprio, (maskHigh_iff _).2 hmask⟩).trans ?_
  exact congrArg _ (noticeConfigBytes_of_args hl hp hprio hmask)

theorem cmdSetNotices_refuses
    (h : 3 < (byteAt r.args 0).toNat ∨ 7 < (byteAt r.args 4).toNat ∨ 4096 ≤ (halfAt r.args 5).toNat) :
    cmdSetNotices r s = s.refuse .badArgument := by
  unfold cmdSetNotices
  dsimp only
  split
  · next q hq =>
    refine if_neg fun hok => ?_
    obtain ⟨hprio, hmask⟩ := hok
    have := (maskHigh_iff _).1 hmask
    obtain hp | hp | hp := h
    · rw [portArg_none hp] at hq
      cases hq
    · omega
    · omega
  · rfl

end

/-- Settles O51: the quarantine's end as its timer has it; the notice settings checked and stored. -/
theorem releasePortAndSetNotices : Obligations.ReleasePortAndSetNotices := by
  refine ⟨fun r p s h hp hown hthreshold => ⟨fun hq => ?_, fun hq => ?_⟩, fun r s h hp => ?_, fun r s h => ?_⟩
  · have hcmd := cmdReleasePort_releases (s := s.served r) hp hq
    have hu := (moved_endQuarantine (s := s) (p := p) hthreshold).settle
    have hv := (moved_endQuarantine (s := s.served r) (p := p) hthreshold).settle
    rw [portResults_of_agent (hu.with_agent hv) p] at hcmd
    obtain ⟨t, hexec, hreplied⟩ := replied_of_released h rfl rfl hcmd hu hv fun hb => hown (rxRefs_held hb)
    exact ⟨t, _, hexec, hu, hreplied⟩
  · exact replied_refused h rfl rfl (cmdReleasePort_badState (s := s.served r) hp hq)
  · exact replied_refused h rfl rfl (cmdReleasePort_refuses (s := s.served r) hp)
  · refine ⟨fun p hp hprio hmask => ?_, fun hbad => ?_⟩
    · obtain ⟨t, hexec, hreplied⟩ := exists_replied_of_cmd
        (u := { s with notices := { s.notices with cfg :=
          { dest := p, tag := tagAt r.args 1, prio := (byteAt r.args 4).setWidth 3
            mask := (halfAt r.args 5).setWidth 12 } } }) h rfl rfl
        (cmdSetNotices_sets (s := s.served r) h.2.2 hp hprio hmask) rfl rfl
      exact ⟨t, _, hexec, hreplied, rfl⟩
    · exact replied_refused h rfl rfl (cmdSetNotices_refuses (s := s.served r) hbad)

end Sys2Proof.Configuring
end

section
/-! The Notice Unit: notices raised, the lost count dealt with, and the build of a NOTICE frame (10). -/

namespace Sys2Proof.Notices
open Sys2Proof.Machine Sys2Proof.LinkPorts

/-! ### Notices raised and lost (R187 to R189) -/

section
variable {u : NoticeUnit} {k : NoticeKind} {time : Instant} {subject : Byte} {detail : Half}

theorem pushNotice_disabled (h : kindEnabled u.cfg.mask k = false) : pushNotice u k time subject detail = u :=
  if_neg (by rw [h]; exact Bool.false_ne_true)

theorem pushNotice_queued (h : kindEnabled u.cfg.mask k = true) (hroom : u.queue.length < 32) :
    pushNotice u k time subject detail =
      { u with nextSeq := u.nextSeq + 1, queue := u.queue ++ [{ seq := u.nextSeq, kind := k, time, subject, detail }] } :=
  (if_pos h).trans (if_pos hroom)

theorem pushNotice_lost (h : kindEnabled u.cfg.mask k = true) (hfull : 32 ≤ u.queue.length) :
    pushNotice u k time subject detail =
      { u with nextSeq := u.nextSeq + 1, lost := if u.lost = 0xFFFFFFFF then u.lost else u.lost + 1 } :=
  (if_pos h).trans (if_neg (Nat.not_lt.2 hfull))

theorem reportLost_none (h : u.lost = 0) : reportLost u time = u := if_pos h

theorem reportLost_disabled (h : u.lost ≠ 0) (hk : kindEnabled u.cfg.mask .noticesLost = false) :
    reportLost u time = { u with lost := 0 } := (if_neg h).trans (if_neg (by rw [hk]; exact Bool.false_ne_true))

theorem reportLost_enabled (h : u.lost ≠ 0) (hk : kindEnabled u.cfg.mask .noticesLost = true) :
    reportLost u time = { u with
      nextSeq := u.nextSeq + 1
      queue := u.queue ++ [{ seq := u.nextSeq, kind := .noticesLost, time, subject := 0
                             detail := BitVec.ofNat 16 (min u.lost.toNat 65535) }]
      lost := 0 } := (if_neg h).trans (if_pos hk)

/-- The lost count is dealt with whatever the kind's setting is; the settings and the waiting frame stay (R189). -/
theorem reportLost_frame (u : NoticeUnit) (time : Instant) :
    (reportLost u time).lost = 0 ∧ (reportLost u time).cfg = u.cfg ∧ (reportLost u time).waiting = u.waiting := by
  by_cases h : u.lost = 0
  · rw [reportLost_none h]
    exact ⟨h, rfl, rfl⟩
  · cases hk : kindEnabled u.cfg.mask .noticesLost with
    | false =>
      rw [reportLost_disabled h hk]
      exact ⟨rfl, rfl, rfl⟩
    | true =>
      rw [reportLost_enabled h hk]
      exact ⟨rfl, rfl, rfl⟩

end

/-! ### The build (R190, R191) -/

/-- The send condition (R190). -/
theorem sendCondition_iff (s : State) : s.sendCondition = true ↔
    s.notices.waiting = none ∧ s.notices.queue ≠ [] ∧ (s.port s.notices.cfg.dest).isUp = true
      ∧ (s.port s.notices.cfg.dest).queue.length < (s.port s.notices.cfg.dest).cfg.queueLimit := by
  unfold State.sendCondition PortRec.canAccept
  rw [Bool.and_eq_true, Bool.and_eq_true, Bool.and_eq_true, Option.isNone_iff_eq_none, decide_eq_true_eq,
    Bool.not_eq_true', List.isEmpty_eq_false_iff, and_assoc]

/-- The settings are not the allocation's (R187, R193). -/
theorem allocated_noticeConfig {s u : State} {b : BufId} (h : Allocated s u b) : u.notices.cfg = s.notices.cfg := by
  rw [h.notices]
  split
  · exact pushNotice_cfg _ _ _ _ _
  · rfl

theorem build_none {s : State} (h : s.sendCondition = false ∨ s.freeCount = 0) : s.build = s := by
  unfold State.build
  split
  · next hc =>
    obtain h | h := h
    · exact absurd (h.symm.trans hc) Bool.false_ne_true
    · rw [(alloc_none (n := Config.agentNeed) (Nat.le_refl 1)).2 (by rw [h]; decide)]
  · rfl

theorem build_into {s u : State} {b : BufId} (h : s.sendCondition = true) (ha : s.alloc Config.agentNeed = some (b, u)) :
    s.build = u.buildInto b := by
  unfold State.build
  rw [if_pos h, ha]

theorem buildInto_port (u : State) (b : BufId) (p : Port) :
    (u.buildInto b).port p = if p = u.notices.cfg.dest then
        { u.port p with
          queue := insertEntry { buf := b, prio := u.notices.cfg.prio, time := u.localTime, origin := .notice }
            (u.port p).queue }
      else u.port p := by
  show (((u.writeFrame b _).setPort u.notices.cfg.dest _).port p) = _
  rw [State.port_setPort]
  split
  · next hp =>
    subst hp
    rfl
  · rfl

/-- The frame of the oldest records is all the build's buffer holds (R191). -/
theorem buildInto_pool {u : State} {b : BufId} (hb : u.buf b = { refs := 1, bytes := [] }) :
    (u.buildInto b).pool = (u.setBuf b
      { refs := 1, bytes := noticeFrame u.notices.cfg (u.notices.queue.take 12) }).pool := by
  show (u.setBuf b { u.buf b with bytes := noticeFrame u.notices.cfg (u.notices.queue.take 12) }).pool = _
  rw [hb]

/-- The Notice Unit as the build takes the oldest records from it, before the lost count (R191). -/
def taken (u : NoticeUnit) : NoticeUnit := { u with queue := u.queue.drop 12, waiting := some u.cfg.dest }

theorem buildInto_notices (u : State) (b : BufId) :
    (u.buildInto b).notices = reportLost (taken u.notices) u.cellTime := rfl

/-- Settles O54: a raised notice's three branches; and a build is what `buildInto` makes of the allocation. -/
theorem noticesAreQueuedAndSent : Obligations.NoticesAreQueuedAndSent := by
  refine ⟨fun u k time subject detail => ⟨pushNotice_disabled, pushNotice_queued, pushNotice_lost⟩, fun s hr => ?_⟩
  have hexec : exec .noticeBuild s = .next s.build := congrArg _ (if_pos hr)
  dsimp only
  rw [hexec, ← sendCondition_iff]
  refine ⟨fun hcond hfree => ?_, fun h => congrArg _ (build_none (h.imp_left eq_false_of_ne_true))⟩
  obtain ⟨b, u, ha⟩ := alloc_exists (n := Config.agentNeed) (Nat.le_refl 1) hfree
  have hu := alloc_allocated (Nat.le_refl 1) ha
  have hcfg := allocated_noticeConfig hu
  have hbuf : u.buf b = { refs := 1, bytes := [] } := by rw [hu.bufs, if_pos rfl]
  have htime : u.localTime = s.localTime := by rw [hu.rest]
  have hcell : u.cellTime = s.cellTime := by rw [hu.rest]; rfl
  obtain ⟨hlost, hsettings, hwaiting⟩ := reportLost_frame (taken u.notices) u.cellTime
  refine ⟨b, u, u.buildInto b, hu, congrArg _ (build_into hcond ha), rfl, ?_, fun p => ?_, ?_, ?_, ?_, fun h => ?_,
    fun h hk => ?_, fun h hk => ?_⟩
  · rw [← hcfg]
    exact buildInto_pool hbuf
  · rw [buildInto_port, hcfg, htime]
  · rw [buildInto_notices, hwaiting, ← hcfg]
    rfl
  · rw [buildInto_notices, hsettings, ← hcfg]
    rfl
  · rw [buildInto_notices, hlost]
  · rw [buildInto_notices, reportLost_none (u := taken u.notices) h]
    exact ⟨rfl, rfl⟩
  · rw [← hcfg] at hk
    rw [buildInto_notices, reportLost_disabled (u := taken u.notices) h hk]
    exact ⟨rfl, rfl⟩
  · rw [← hcfg] at hk
    rw [buildInto_notices, reportLost_enabled (u := taken u.notices) h hk, hcell]
    exact ⟨rfl, rfl⟩

end Sys2Proof.Notices
end

section
/-! RESET TRAFFIC and RESET FULL: what the flushes leave, what the FULL reset leaves block by block, and the frame end
that comes together with it (06, 09). -/

namespace Sys2Proof.Resets
open Sys2Proof.Machine Sys2Proof.BankController Sys2Proof.Reading Sys2Proof.Happenings Sys2Proof.Frames
  Sys2Proof.Forwarding Sys2Proof.FrameEnds Sys2Proof.Receptions Sys2Proof.References Sys2Proof.LinkPorts
  Sys2Proof.Notices Sys2Proof.PortMoves

/-! ### The Agent apart -/

section
variable (s : State) (a : Agent)

theorem dropRefs_with_agent (bs : List BufId) :
    ({ s with agent := a } : State).dropRefs bs = { s.dropRefs bs with agent := a } := by
  induction bs generalizing s with
  | nil => rfl
  | cons b bs ih => exact ih (s.dropRef b)

theorem noticeLeft_with_agent (es : List QueueEntry) :
    ({ s with agent := a } : State).noticeLeft es = { s.noticeLeft es with agent := a } := by
  unfold State.noticeLeft
  split <;> rfl

theorem flushPort_with_agent (p : Port) :
    ({ s with agent := a } : State).flushPort p = { s.flushPort p with agent := a } := by
  rw [flushPort_eq, flushPort_eq]
  have hdrop := dropRefs_with_agent (s.setPort p (flushed (s.port p))) a (flushedRefs (s.port p))
  exact (congrArg (State.noticeLeft · (s.port p).queue) hdrop).trans (noticeLeft_with_agent _ a _)

theorem settle_with_agent (base : State) :
    ({ s with agent := a } : State).settle { base with agent := a } = { s.settle base with agent := a } := by
  show (if base.freeCount < s.freeCount then ({ s with agent := a } : State).decideAtRelease else _) = _
  unfold State.settle State.decideAtRelease
  split
  · dsimp only
    split
    · rfl
    · show (if Config.holdLeave ≤ s.freeCount then _ else _) = _
      split <;> rfl
  · rfl

end

/-! ### The flushes of RESET TRAFFIC (R114, R116) -/

/-- The flushes of some ports, one after the other. -/
abbrev flushes (s : State) (ps : List Port) : State := ps.foldl State.flushPort s

theorem flushes_with_agent (s : State) (a : Agent) (ps : List Port) :
    flushes { s with agent := a } ps = { flushes s ps with agent := a } := by
  induction ps generalizing s with
  | nil => rfl
  | cons p ps ih => exact (congrArg (flushes · ps) (flushPort_with_agent s a p)).trans (ih (s.flushPort p))

theorem flushAll_with_agent (s : State) (a : Agent) :
    ({ s with agent := a } : State).flushAll = { s.flushAll with agent := a } :=
  (congrArg (State.settle · { s with agent := a }) (flushes_with_agent s a _)).trans (settle_with_agent _ a s)

theorem noticesAfter_append (u : NoticeUnit) (es fs : List QueueEntry) :
    noticesAfter (noticesAfter u es) fs = noticesAfter u (es ++ fs) := by
  unfold noticesAfter
  rw [List.any_append]
  cases es.any (fun e => e.origin == .notice) <;> cases fs.any (fun e => e.origin == .notice) <;> rfl

/-- Flushes of different ports leave each flushed, and give back what all of them held. -/
theorem flushes_facts (s : State) {ps : List Port} (hps : ps.Nodup) :
    (∀ q, (flushes s ps).port q = if q ∈ ps then flushed (s.port q) else s.port q)
      ∧ (∀ b, (flushes s ps).buf b = (s.buf b).less ((ps.flatMap fun p => flushedRefs (s.port p)).count b))
      ∧ (flushes s ps).pool = { s.pool with bufs := (flushes s ps).pool.bufs }
      ∧ (flushes s ps).notices = noticesAfter s.notices (ps.flatMap fun p => (s.port p).queue) := by
  induction ps generalizing s with
  | nil => exact ⟨fun q => (if_neg List.not_mem_nil).symm, fun b => rfl, rfl, rfl⟩
  | cons p ps ih =>
    obtain ⟨hp, hps⟩ := List.nodup_cons.1 hps
    obtain ⟨hport, hbuf, hpool, hnotices⟩ := ih (s.flushPort p) hps
    have hothers : ∀ q ∈ ps, (s.flushPort p).port q = s.port q := fun q hq => by
      rw [flushPort_port, if_neg (fun (h : q = p) => hp (h ▸ hq))]
    have hrefs : (ps.flatMap fun q => flushedRefs ((s.flushPort p).port q))
        = ps.flatMap fun q => flushedRefs (s.port q) :=
      List.flatMap_congr fun q hq => by rw [hothers q hq]
    have hqueues : (ps.flatMap fun q => ((s.flushPort p).port q).queue) = ps.flatMap fun q => (s.port q).queue :=
      List.flatMap_congr fun q hq => by rw [hothers q hq]
    have hcons : flushes s (p :: ps) = flushes (s.flushPort p) ps := rfl
    refine ⟨fun q => ?_, fun b => ?_, hpool.trans ?_, ?_⟩
    · rw [hcons, hport, flushPort_port]
      by_cases hq : q = p
      · rw [if_pos hq, if_neg (hq ▸ hp), if_pos (hq ▸ List.mem_cons_self), hq]
      · rw [if_neg hq]
        simp only [List.mem_cons, hq, false_or]
    · rw [hcons, hbuf, hrefs, flushPort_buf, less_less, List.flatMap_cons, List.count_append]
    · rw [flushPort_pool]
      rfl
    · rw [hcons, hnotices, hqueues, flushPort_notices, noticesAfter_append, List.flatMap_cons]

/-- What RESET TRAFFIC leaves of the ports, the pool and the notices (R116, R144). -/
theorem flushAll_facts (s : State) :
    (∀ p, s.flushAll.port p = { flushed (s.port p) with
        ctl := (s.port p).ctl ++ if (s.port p).isUp && s.resumed s.flushAll then [.resume] else [] })
      ∧ (∀ b, s.flushAll.buf b
          = (s.buf b).less (((List.finRange 4).flatMap fun p => flushedRefs (s.port p)).count b))
      ∧ s.flushAll.pool = { s.pool with
          bufs := s.flushAll.pool.bufs, hold := if s.resumed s.flushAll then .normal else s.pool.hold }
      ∧ s.flushAll.notices = noticesAfter s.notices ((List.finRange 4).flatMap fun p => (s.port p).queue) := by
  obtain ⟨hport, hbuf, hpool, hnotices⟩ := flushes_facts s (List.nodup_finRange 4)
  have hhold : (flushes s (List.finRange 4)).pool.hold = s.pool.hold := by rw [hpool]
  have hall : s.flushAll = (flushes s (List.finRange 4)).settle s := rfl
  rw [hall]
  generalize flushes s (List.finRange 4) = v at hport hbuf hpool hnotices hhold
  have hup : ∀ p, (flushed (s.port p)).isUp = (s.port p).isUp := fun _ => rfl
  refine ⟨fun p => ?_, fun b => by rw [settle_buf, hbuf], ?_, by rw [settle_notices, hnotices]⟩
  · rw [settle_resumed_port hhold, hport, if_pos (List.mem_finRange p), hup]
    rfl
  · rw [settle_pool hhold, hhold, hpool]

theorem flushAll_wf {s : State} (h : s.pool.wf) : s.flushAll.pool.wf := by
  intro b h0
  have hb := (flushAll_facts s).2.1 b
  unfold State.buf at hb
  rw [hb] at h0 ⊢
  exact less_free (h b) h0

section
variable {r : Taken} {s : State}

theorem trafficReset_with_agent (a : Agent) :
    ({ s with agent := a } : State).trafficReset = { s.trafficReset with agent := a } := by
  unfold State.trafficReset
  rw [flushAll_with_agent]
  rfl

theorem trafficRow {args : List Byte} (h : byteAt args 0 ≠ 1) : commandRow 0x7F args = .resetTraffic := if_neg h

theorem fullRow {args : List Byte} (h : byteAt args 0 = 1) : commandRow 0x7F args = .resetFull := if_pos h

theorem trafficReset_flow (s : State) (i : FlowIx) : s.trafficReset.flow i = rearm s.localTime (s.flow i) := get_ofFn _ i

end

/-- Settles O52: the flushes of the four ports as one release, beside the flows' re-arming. -/
theorem trafficResetClearsWhatIsInFlight : Obligations.TrafficResetClearsWhatIsInFlight := by
  intro r s h hown
  refine ⟨fun h0 => ?_, fun h1 => ?_⟩
  · obtain ⟨hrefs, hwf, hlen⟩ := reply_ready_of_carriesCommand h
    have hne : byteAt r.args 0 ≠ 1 := by rw [h0]; decide
    have hcmd : cmdResetTraffic r (s.served r) = ((s.served r).trafficReset).accept [0] := if_pos h0
    have hserved : (s.served r).trafficReset = { s.trafficReset with agent := (s.served r).agent } :=
      trafficReset_with_agent (s := s) (s.served r).agent
    have hlinks := flushAll_sameButLinks s
    have hwf' := flushAll_wf hwf
    obtain ⟨hport, hbuf, hpool, hnotices⟩ := flushAll_facts s
    have hflow := trafficReset_flow s
    have hbufOwn : s.flushAll.buf r.buf = s.buf r.buf := by
      rw [hbuf, List.count_eq_zero.2, less_zero]
      rw [List.mem_flatMap]
      exact fun ⟨p, _, hp⟩ => hown p hp
    rw [hserved] at hcmd
    unfold State.trafficReset at hcmd hflow
    dsimp only at hcmd hflow
    generalize s.flushAll = v at hlinks hwf' hport hbuf hpool hnotices hbufOwn hcmd hflow
    generalize (Vector.ofFn fun i : FlowIx => rearm s.localTime (s.flow i)) = flows at hcmd hflow
    refine ⟨_, { v with flows := flows },
      congrArg Host.Outcome.next (taking_carries (cmd := cmdResetTraffic) h (trafficRow hne)),
      carryOut_replied ((checkLength_ok hlen).trans hcmd) hwf' (hbufOwn ▸ hrefs) (by rw [hlinks]), ?_, hport, hbuf, hpool,
      hnotices, hflow⟩
    rw [hlinks]
  · have hne : ∀ b : Byte, b.toNat ≤ 1 → byteAt r.args 0 ≠ b := fun b hb heq => by rw [heq] at h1; omega
    exact replied_refused h (trafficRow (hne 1 (by decide))) rfl (if_neg (hne 0 (by decide)))

/-! ### RESET FULL (R41, R117, R143, R161, R185, R197) -/

section
variable (s : State) (own : BufId)

theorem fullReset_buf (b : BufId) : (s.fullReset own).buf b = if b = own then s.buf b else freeBuffer := get_ofFn _ b

theorem fullReset_flow (i : FlowIx) : (s.fullReset own).flow i = { clearedFlow 0 with lastRefill := s.localTime } :=
  get_replicate _ i

/-- Every buffer but the RESET request's own is free (R117). -/
theorem fullReset_freeCount (h : (s.buf own).refs = 1) : (s.fullReset own).freeCount = 95 := by
  have hfree : ∀ b, ((s.fullReset own).pool.bufs.get b).refs == 0 ↔ ¬ (b == own) = true := by
    intro b
    have hb : (s.fullReset own).pool.bufs.get b = _ := fullReset_buf s own b
    rw [hb]
    split
    · next hown => simp [hown, h]
    · next hown => simp [hown, freeBuffer]
  have hone : (List.finRange 96).countP (· == own) = 1 :=
    List.count_eq_one_of_mem (List.nodup_finRange 96) (List.mem_finRange own)
  have hsum := List.length_eq_countP_add_countP (fun b => b == own) (l := List.finRange 96)
  rw [hone, List.length_finRange] at hsum
  have hcount : (s.fullReset own).freeCount = (List.finRange 96).countP fun b => decide ¬ (b == own) = true :=
    List.countP_congr fun b _ => (hfree b).trans decide_eq_true_iff.symm
  omega

theorem fullReset_notices : (s.fullReset own).notices =
    { queue := [{ seq := s.notices.nextSeq, kind := .restarted, time := s.cellTime, subject := 1
                  detail := BitVec.ofNat 16 s.notices.queue.length }]
      nextSeq := s.notices.nextSeq + 1, lost := 0
      cfg := { dest := 0, tag := 0, prio := 7, mask := 0xFFF }, waiting := none } :=
  pushNotice_queued (u := { queue := [], nextSeq := s.notices.nextSeq, lost := 0, cfg := defaultNoticeConfig
                            waiting := none }) (k := .restarted)
    (show kindEnabled 0xFFF .restarted = true by decide) (show 0 < 32 by decide)

end

theorem defaultPortConfig_eq (st : Straps) (p : Port) : defaultPortConfig st p = ((State.powerOn st 0).port p).cfg := by
  show _ = PortRec.cfg (Vector.get (Vector.ofFn _) p)
  rw [get_ofFn]
  rfl

/-- A port through a FULL reset, field by field (R117, R143). -/
theorem resetPort_fields (st : Straps) (p : Port) (x : PortRec) (hold : HoldState) : resetPort st hold.isHolding p x =
    { signal := x.signal
      link := match x.link with
        | .quarantine _ => .training 0
        | .disabled => if x.signal then .training 0 else .down
        | l => l
      score := 0, warned := false, nextLeak := none
      rx := match x.rx with
        | .frame (some _) l => if x.isQuarantine then .idle else .stripped l
        | other => if x.isQuarantine then .idle else other
      cfg := ((State.powerOn st 0).port p).cfg
      counters := zeroPortCounters, queue := [], tx := none
      ctl := x.ctl ++ if x.isUp = true ∧ hold ≠ .normal then [.resume] else [] } := by
  have hrx : resetReception x = match x.rx with
      | .frame (some _) l => if x.isQuarantine then .idle else .stripped l
      | other => if x.isQuarantine then .idle else other := by
    unfold resetReception PortRec.isQuarantine
    cases x.link <;> cases x.rx with
    | frame o l => cases o <;> rfl
    | _ => rfl
  have hlink : resetLink x = match x.link with
      | .quarantine _ => .training 0
      | .disabled => if x.signal then .training 0 else .down
      | l => l := by
    unfold resetLink
    cases x.link <;> rfl
  have hctl : (if hold.isHolding && x.isUp then x.ctl ++ [.resume] else x.ctl)
      = x.ctl ++ if x.isUp = true ∧ hold ≠ .normal then [.resume] else [] := by
    cases hold <;> cases x.isUp <;> simp [HoldState.isHolding]
  unfold resetPort
  rw [hrx, hlink, hctl, defaultPortConfig_eq]

/-- A stripped frame that ends good in UP with buffers free stands in a buffer allocated anew (R41, R60, log 31). -/
theorem frameEnd_anew {s t : State} {p : Port} {b : BufId} {l : List Byte} (hr : s.running = true)
    (hu : (s.port p).isUp = true) (hx : (s.port p).rx = .stripped l) (hg : goodFrame l)
    (ha : (s.setPort p (lockHeld (s.port p))).alloc Config.ingressNeed = some (b, t)) :
    exec (.frameEnd p) s = .next ((t.writeFrame b l).goodEnd p (some b) l) := by
  have hport : (s.setPort p (lockHeld (s.port p))).port p = lockHeld (s.port p) := State.port_setPort_same _ _ _
  rw [exec_frameEnd, receive_up hr hu (sym := .eof) nofun nofun nofun]
  unfold State.delimit
  rw [hport, lockHeld_rx, hx]
  show Host.Outcome.next ((s.setPort p (lockHeld (s.port p))).rxEofStripped p l) = _
  unfold State.rxEofStripped
  rw [eofError_eq, goodFrame_errorAt hg, hport, lockHeld_isUp, hu, ha]

/-- With too few buffers free it ends as a frame without one (R128, log 31). -/
theorem frameEnd_unplaced {s : State} {p : Port} {l : List Byte} (hr : s.running = true)
    (hu : (s.port p).isUp = true) (hx : (s.port p).rx = .stripped l) (hg : goodFrame l) (hf : s.freeCount < 5) :
    exec (.frameEnd p) s = .next ((s.setPort p (lockHeld (s.port p))).goodEnd p none l) := by
  have hport : (s.setPort p (lockHeld (s.port p))).port p = lockHeld (s.port p) := State.port_setPort_same _ _ _
  have hnone : (s.setPort p (lockHeld (s.port p))).alloc Config.ingressNeed = none := (alloc_none (by decide)).2 hf
  rw [exec_frameEnd, receive_up hr hu (sym := .eof) nofun nofun nofun]
  unfold State.delimit
  rw [hport, lockHeld_rx, hx]
  show Host.Outcome.next ((s.setPort p (lockHeld (s.port p))).rxEofStripped p l) = _
  unfold State.rxEofStripped
  rw [eofError_eq, goodFrame_errorAt hg, hport, lockHeld_isUp, hu, hnone]

/-- A run of invalid symbols that has ended stays so, whatever is handed to the transmitter. -/
theorem lockHeld_twice (x : PortRec) (c : List Ctl) :
    lockHeld { lockHeld x with ctl := c } = { lockHeld x with ctl := c } := by
  unfold lockHeld
  cases x.link <;> rfl

theorem endedGood_locked {x : PortRec} (h : lockHeld x = x) (r : Reception) : endedGood { x with rx := r } =
    { x with rx := .idle, counters := { x.counters with rxGood := x.counters.rxGood + 1 } } :=
  congrArg (fun y : PortRec => { y with
    rx := .idle, counters := { x.counters with rxGood := x.counters.rxGood + 1 } }) h

/-- The new buffer holds the frame as if the port had received it there. -/
theorem stripped_as_received {s t : State} {p : Port} {b : BufId} {l : List Byte} (hr : s.running = true)
    (hu : (s.port p).isUp = true) (hx : (s.port p).rx = .stripped l) (hg : goodFrame l)
    (hallocated : Allocated (s.setPort p (lockHeld (s.port p))) t b)
    (ha : (s.setPort p (lockHeld (s.port p))).alloc Config.ingressNeed = some (b, t)) :
    let u := (t.setPort p { t.port p with rx := .frame (some b) l }).setBuf b { refs := 1, bytes := l }
    u.receiving p b l ∧ exec (.frameEnd p) s = exec (.frameEnd p) u := by
  have htport := hallocated.ports p
  rw [State.port_setPort_same] at htport
  have hup : (t.port p).isUp = true := by
    rw [htport]
    exact (lockHeld_isUp _).trans hu
  have hlocked : lockHeld (t.port p) = t.port p := by
    rw [htport]
    exact lockHeld_twice (s.port p) _
  have hrunning : t.running = true := by
    rw [hallocated.rest]
    exact hr
  have hwritten : t.writeFrame b l = t.setBuf b { refs := 1, bytes := l } := by
    unfold State.writeFrame
    rw [hallocated.bufs, if_pos rfl]
  have huport : ((t.setPort p { t.port p with rx := .frame (some b) l }).setBuf b { refs := 1, bytes := l }).port p
      = { t.port p with rx := .frame (some b) l } := State.port_setPort_same t p _
  have hreceiving : ((t.setPort p { t.port p with rx := .frame (some b) l }).setBuf b
      { refs := 1, bytes := l }).receiving p b l := by
    refine ⟨hrunning, by rw [huport]; exact hup, by rw [huport], ?_⟩
    exact congrArg Buffer.refs (get_set_same t.pool.bufs b _)
  refine ⟨hreceiving, ?_⟩
  have hset : ((t.setPort p { t.port p with rx := .frame (some b) l }).setBuf b { refs := 1, bytes := l }).setPort p
      (endedGood { t.port p with rx := .frame (some b) l })
      = (t.setBuf b { refs := 1, bytes := l }).setPort p { t.port p with
          rx := .idle, counters := { (t.port p).counters with rxGood := (t.port p).counters.rxGood + 1 } } := by
    rw [endedGood_locked hlocked]
    exact setPort_setPort (t.setBuf b { refs := 1, bytes := l }) p _ _
  rw [frameEnd_anew hr hu hx hg ha, frameEnd_classify hreceiving hg, huport, hset, hwritten,
    goodEnd_classify (s := t.setBuf b { refs := 1, bytes := l }) hup]
  exact congrArg _ (settle_congr rfl)

/-- Settles O53: the blocks the reset leaves, and the frame end after it, in its new buffer or without one. -/
theorem fullResetRestoresPowerOn : Obligations.FullResetRestoresPowerOn := by
  refine ⟨fun r s h h1 => ?_, fun p l s hr hu hx hg => ⟨fun hf => ?_, fun hf => ?_⟩⟩
  · obtain ⟨hrefs, hwf, hlen⟩ := reply_ready_of_carriesCommand h
    have hcmd : cmdResetFull r (s.served r) = ((s.served r).fullReset r.buf).accept [1] := if_pos h1
    have hbuf := fullReset_buf s r.buf
    have hown : ((s.fullReset r.buf).buf r.buf).refs = 1 := by rw [hbuf, if_pos rfl]; exact hrefs
    have hwf' : (s.fullReset r.buf).pool.wf := by
      intro b h0
      have hb : (s.fullReset r.buf).pool.bufs.get b = _ := hbuf b
      rw [hb] at h0 ⊢
      split at h0
      · next he => rw [if_pos he]; exact hwf b h0
      · next hne => rw [if_neg hne]
    obtain ⟨hagent, hdelivered⟩ := carryOut_answered (u := s.fullReset r.buf) (c := zeroAgentCounters) (others := [])
      (table := []) (queue := []) ((checkLength_ok hlen).trans hcmd) ⟨nofun, .inr ⟨rfl, rfl⟩⟩ hwf' hown
    refine ⟨_, s.fullReset r.buf, congrArg Host.Outcome.next (taking_carries (cmd := cmdResetFull) h (fullRow h1)),
      hagent, hdelivered, rfl, fun p => ?_, hbuf, fullReset_freeCount s r.buf hrefs, rfl, rfl, rfl,
      fullReset_flow s r.buf, fullReset_notices s r.buf⟩
    exact (fullReset_port s r.buf p).trans (resetPort_fields s.straps p (s.port p) s.pool.hold)
  · obtain ⟨b, t, ha⟩ := alloc_exists (s := s.setPort p (lockHeld (s.port p))) (n := Config.ingressNeed) (by decide) hf
    have hallocated := alloc_allocated (by decide) ha
    exact ⟨b, t, hallocated, stripped_as_received hr hu hx hg hallocated ha⟩
  · have hport : (s.setPort p (lockHeld (s.port p))).port p = lockHeld (s.port p) := State.port_setPort_same _ _ _
    have hnot : (lockHeld (s.port p)).isQuarantine = false := by
      obtain ⟨_, _, hl⟩ := isUp_link ((lockHeld_isUp (s.port p)).trans hu)
      unfold PortRec.isQuarantine
      rw [hl]
    rw [frameEnd_unplaced hr hu hx hg hf, released_nil (released_of_setPort (released_discard l (.inr rfl))), hport, hnot]
    rfl

end Sys2Proof.Resets
end

section
/-! The encodings give back what was encoded in them: symbols, frames, and the images of rules, flows and ports (11). -/

namespace Sys2Proof.Encodings
open Sys2Proof.Machine

/-! ### Bits and fields -/

/-- The low part of an appended field. -/
theorem extract_low {m n : Nat} (a : BitVec m) (b : BitVec n) : (a ++ b).extractLsb' 0 n = b :=
  (extract_append_low a b (by omega)).trans (extract_all b)

/-- The high part of an appended field. -/
theorem extract_high {m n : Nat} (a : BitVec m) (b : BitVec n) : (a ++ b).extractLsb' n m = a :=
  (extract_append_above a b 0 m).trans (extract_all a)

theorem getLsbD_append_bit {m : Nat} (a : BitVec m) (b : Bool) : (a ++ bit b).getLsbD 0 = b := by
  rw [BitVec.getLsbD_append, if_pos (by decide)]
  cases b <;> rfl

theorem getLsbD_append_bit_succ {m : Nat} (a : BitVec m) (b : Bool) (i : Nat) :
    (a ++ bit b).getLsbD (i + 1) = a.getLsbD i := by
  rw [BitVec.getLsbD_append, if_neg (by omega)]
  rfl

theorem extract_append_bit {m : Nat} (a : BitVec m) (b : Bool) (k w : Nat) :
    (a ++ bit b).extractLsb' (1 + k) w = a.extractLsb' k w := extract_append_above a (bit b) k w

/-- One bit of a field is a field of width 1. -/
theorem bit_getLsbD {n : Nat} (x : BitVec n) (k : Nat) : bit (x.getLsbD k) = x.extractLsb' k 1 := by
  apply BitVec.eq_of_getLsbD_eq
  intro i hi
  obtain rfl : i = 0 := by omega
  rw [BitVec.getLsbD_extractLsb']
  cases x.getLsbD k <;> simp [bit]

theorem and_mask_twice {n : Nat} (v m : BitVec n) : v &&& m &&& m = v &&& m := by
  rw [BitVec.and_assoc, BitVec.and_self]

theorem and_mask_outside {n : Nat} (v m : BitVec n) : v &&& m &&& ~~~m = 0 := by
  rw [BitVec.and_assoc, BitVec.and_not_self]
  exact BitVec.and_zero

theorem toNat_byteOf {n : Nat} (h : n ≤ 255) : (byteOf n).toNat = n := Nat.mod_eq_of_lt (by omega)

theorem toNat_half {n : Nat} (h : n ≤ 65535) : (BitVec.ofNat 16 n).toNat = n := Nat.mod_eq_of_lt (by omega)

/-! ### Symbols (R198) -/

theorem decode_data (d : Byte) : decodeSymbol (1#2 ++ d) = .data d := by
  unfold decodeSymbol
  rw [extract_high, extract_low]
  exact if_pos rfl

theorem decode_encode {sym : Symbol} {c : BitVec 10} (h : encodeSymbol sym = some c) : decodeSymbol c = sym := by
  cases sym with
  | data d =>
    obtain rfl := Option.some.inj h
    exact decode_data d
  | invalid => cases h
  | _ =>
    obtain rfl := Option.some.inj h
    rfl

/-- A code group is the one of the symbol it decodes to, which its first two bits or its whole value give. -/
theorem encode_decode {c : BitVec 10} : decodeSymbol c ≠ .invalid → encodeSymbol (decodeSymbol c) = some c := by
  unfold decodeSymbol
  split
  · next hdata =>
    intro _
    show some (1#2 ++ c.extractLsb' 0 8) = some c
    rw [← hdata, append_extract c 0 8 2, extract_all]
  iterate 6
    split
    · next hc =>
      intro _
      rw [hc]
      rfl
  exact fun h => absurd rfl h

/-! ### Frames (R199) -/

theorem kindOfCode_kindCode (k : FrameKind) : kindOfCode (kindCode k) = k := by cases k <;> rfl

theorem headerBytes_length (h : Header) : (headerBytes h).length = 6 := rfl

theorem byteAt_append_left {l m : List Byte} {i : Nat} (h : i < l.length) : byteAt (l ++ m) i = byteAt l i := by
  unfold byteAt
  rw [List.getD_append _ _ _ _ h]

theorem byteAt_append_right (l m : List Byte) (i : Nat) : byteAt (l ++ m) (l.length + i) = byteAt m i := by
  unfold byteAt
  rw [List.getD_append_right _ _ _ _ (Nat.le_add_right _ _), Nat.add_sub_cancel_left]

/-- The header fields are read back from the bytes that begin a frame. -/
theorem headerOf_headerBytes (h : Header) (rest : List Byte) : headerOf (headerBytes h ++ rest) = h := by
  have hkind : (kindCode h.kind ++ h.prio ++ h.hop).extractLsb' 6 2 = kindCode h.kind :=
    (extract_append_above (kindCode h.kind ++ h.prio) h.hop 3 2).trans (extract_high (kindCode h.kind) h.prio)
  have hprio : (kindCode h.kind ++ h.prio ++ h.hop).extractLsb' 3 3 = h.prio :=
    (extract_append_above (kindCode h.kind ++ h.prio) h.hop 0 3).trans (extract_low (kindCode h.kind) h.prio)
  have hhop : (kindCode h.kind ++ h.prio ++ h.hop).extractLsb' 0 3 = h.hop := extract_low _ _
  show Header.mk (kindOfCode ((kindCode h.kind ++ h.prio ++ h.hop).extractLsb' 6 2))
    ((kindCode h.kind ++ h.prio ++ h.hop).extractLsb' 3 3) ((kindCode h.kind ++ h.prio ++ h.hop).extractLsb' 0 3)
    (h.tag.extractLsb' 16 8 ++ h.tag.extractLsb' 8 8 ++ h.tag.extractLsb' 0 8) h.payloadLength = h
  rw [hkind, hprio, hhop, kindOfCode_kindCode, tagAt_be24]

section
variable {h : Header} {payload : List Byte}

theorem frameBytes_eq (h : Header) (payload : List Byte) :
    frameBytes h payload = headerBytes h ++ (payload ++ be16 (frameCheck (headerBytes h ++ payload))) :=
  List.append_assoc _ _ _

theorem headerOf_frameBytes : headerOf (frameBytes h payload) = h := by
  rw [frameBytes_eq]
  exact headerOf_headerBytes h _

theorem frameBytes_length : (frameBytes h payload).length = payload.length + 8 := by
  rw [frameBytes_eq, List.length_append, List.length_append, headerBytes_length]
  show 6 + (payload.length + 2) = _
  omega

theorem headerCheck_frameBytes : headerCheck ((frameBytes h payload).take 5) = byteAt (frameBytes h payload) 5 := by
  have hcheck : ∀ (c : Byte) (rest : List Byte), (headerFields h ++ [c] ++ rest).take 5 = headerFields h
      ∧ byteAt (headerFields h ++ [c] ++ rest) 5 = c := fun _ _ => ⟨rfl, rfl⟩
  rw [frameBytes_eq]
  unfold headerBytes
  rw [(hcheck _ _).1, (hcheck _ _).2]

theorem lengthByte_frameBytes : byteAt (frameBytes h payload) 4 = h.payloadLength := by
  rw [frameBytes_eq]
  rfl

theorem frameCheck_frameBytes : frameCheck ((frameBytes h payload).take (payload.length + 6))
    = halfAt (frameBytes h payload) (payload.length + 6) := by
  have hlen : payload.length + 6 = (headerBytes h ++ payload).length := by
    rw [List.length_append, headerBytes_length, Nat.add_comm]
  unfold halfAt frameBytes
  rw [hlen, List.take_left, byteAt_append_right _ _ 1]
  have hfirst := byteAt_append_right (headerBytes h ++ payload) (be16 (frameCheck (headerBytes h ++ payload))) 0
  rw [Nat.add_zero] at hfirst
  rw [hfirst]
  exact (halfAt_be16 _).symm

variable (hlen : payload.length ≤ 128) (hpay : h.payloadLength = BitVec.ofNat 8 payload.length)
include hlen hpay

theorem payloadLength_toNat : (byteAt (frameBytes h payload) 4).toNat = payload.length := by
  rw [lengthByte_frameBytes, hpay]
  exact toNat_byteOf (by omega)

theorem goodFrame_frameBytes : goodFrame (frameBytes h payload) := by
  unfold goodFrame
  rw [payloadLength_toNat hlen hpay]
  exact ⟨frameBytes_length, frameCheck_frameBytes⟩

theorem payloadOf_frameBytes : payloadOf (frameBytes h payload) = payload := by
  unfold payloadOf
  rw [payloadLength_toNat hlen hpay, frameBytes_eq]
  show (payload ++ _).take payload.length = payload
  exact List.take_left

theorem wireBytes_frameBytes : wireBytes (frameBytes h payload) = frameBytes h payload := by
  unfold wireBytes
  rw [headerOf_frameBytes, payloadOf_frameBytes hlen hpay]

end

/-! ### Images and their bytes (R201, R202) -/

/-- The first byte of a rule image: five flags below the reserved bits. -/
abbrev flagByte (r : BitVec 3) (f w p d v : Bool) : Byte := r ++ bit f ++ bit w ++ bit p ++ bit d ++ bit v

section
variable (r : BitVec 3) (f w p d v : Bool)

theorem flagByte_reserved : (flagByte r f w p d v).extractLsb' 5 3 = r :=
  (extract_append_bit _ v 4 3).trans <| (extract_append_bit _ d 3 3).trans <| (extract_append_bit _ p 2 3).trans <|
    (extract_append_bit _ w 1 3).trans <| extract_high r (bit f)

theorem flagByte_valid : (flagByte r f w p d v).getLsbD 0 = v := getLsbD_append_bit _ v

theorem flagByte_drop : (flagByte r f w p d v).getLsbD 1 = d :=
  (getLsbD_append_bit_succ _ v 0).trans (getLsbD_append_bit _ d)

theorem flagByte_prio : (flagByte r f w p d v).getLsbD 2 = p :=
  (getLsbD_append_bit_succ _ v 1).trans ((getLsbD_append_bit_succ _ d 0).trans (getLsbD_append_bit _ p))

theorem flagByte_rewrite : (flagByte r f w p d v).getLsbD 3 = w :=
  (getLsbD_append_bit_succ _ v 2).trans <| (getLsbD_append_bit_succ _ d 1).trans <|
    (getLsbD_append_bit_succ _ p 0).trans (getLsbD_append_bit _ w)

theorem flagByte_flow : (flagByte r f w p d v).getLsbD 4 = f :=
  (getLsbD_append_bit_succ _ v 3).trans <| (getLsbD_append_bit_succ _ d 2).trans <|
    (getLsbD_append_bit_succ _ p 1).trans <| (getLsbD_append_bit_succ _ w 0).trans (getLsbD_append_bit _ f)

end

theorem flagByte_of_bits (b : Byte) : flagByte (b.extractLsb' 5 3) (b.getLsbD 4) (b.getLsbD 3) (b.getLsbD 2)
    (b.getLsbD 1) (b.getLsbD 0) = b := by
  unfold flagByte
  rw [bit_getLsbD, bit_getLsbD, bit_getLsbD, bit_getLsbD, bit_getLsbD, append_extract b 4 1 3, append_extract b 3 1 4,
    append_extract b 2 1 5, append_extract b 1 1 6, append_extract b 0 1 7, extract_all]

theorem ruleImageOf_ruleImageBytes (m : RuleImage) : ruleImageOf (ruleImageBytes m) = m := by
  have hhi : (m.reserved9 ++ m.hi ++ m.lo).extractLsb' 3 3 = m.hi :=
    (extract_append_above (m.reserved9 ++ m.hi) m.lo 0 3).trans (extract_low _ _)
  have htop : (m.reserved9 ++ m.hi ++ m.lo).extractLsb' 6 2 = m.reserved9 :=
    (extract_append_above (m.reserved9 ++ m.hi) m.lo 3 2).trans (extract_high _ _)
  unfold ruleImageOf ruleImageBytes
  simp only [be24, byteAt, tagAt, List.cons_append, List.nil_append, List.getD_cons_succ, List.getD_cons_zero,
    tagAt_be24, extract_low, extract_high, hhi, htop, flagByte_reserved, flagByte_valid, flagByte_drop, flagByte_prio,
    flagByte_rewrite, flagByte_flow]

theorem ruleImageBytes_ruleImageOf {l : List Byte} (h : l.length = 18) : ruleImageBytes (ruleImageOf l) = l := by
  have hhalves : ∀ b : Byte, b.extractLsb' 4 4 ++ b.extractLsb' 0 4 = b := fun b =>
    (append_extract b 0 4 4).trans (extract_all b)
  have hlevels : ∀ b : Byte, b.extractLsb' 6 2 ++ b.extractLsb' 3 3 ++ b.extractLsb' 0 3 = b := fun b => by
    rw [append_extract b 3 3 2, append_extract b 0 3 5, extract_all]
  have hlevel : ∀ b : Byte, b.extractLsb' 3 5 ++ b.extractLsb' 0 3 = b := fun b =>
    (append_extract b 0 3 5).trans (extract_all b)
  match l, h with
  | [b0, b1, b2, b3, b4, b5, b6, b7, b8, b9, b10, b11, b12, b13, b14, b15, b16, b17], _ =>
    unfold ruleImageBytes ruleImageOf
    simp only [byteAt, tagAt, List.getD_cons_succ, List.getD_cons_zero, be24_append, flagByte_of_bits, hhalves, hlevels,
      hlevel, List.cons_append, List.nil_append]

theorem flowImageOf_flowImageBytes (m : FlowImage) : flowImageOf (flowImageBytes m) = m := by
  unfold flowImageOf flowImageBytes
  simp only [be32, be16, byteAt, halfAt, wordAt, List.cons_append, List.nil_append, List.getD_cons_succ,
    List.getD_cons_zero, wordAt_be32, halfAt_be16]

theorem portImageOf_portImageBytes (m : PortImage) : portImageOf (portImageBytes m) = m := by
  unfold portImageOf portImageBytes
  simp only [be16, byteAt, halfAt, List.cons_append, List.nil_append, List.getD_cons_succ, List.getD_cons_zero,
    halfAt_be16]

/-! ### Stored forms and their images (R17, R201, R202) -/

/-- The image of what an accepted image stores: the two values under their masks, all else as it came (R17). -/
def normalised (m : RuleImage) : RuleImage :=
  { m with matchValue := m.matchValue &&& m.matchMask, rwValue := m.rwValue &&& m.rwMask }

/-- The index byte of a bound flow; 0 with none. -/
def flowByte (o : Option FlowIx) : Byte := o.elim 0 fun i => byteOf i.val

theorem ruleImage_drop {e : RuleEntry} (h : e.action = .drop) : ruleImage e =
    { valid := e.valid, dropAction := true, hasPrio := false, hasRewrite := false, hasFlow := e.flow.isSome
      reserved0 := 0, matchValue := e.matchValue, matchMask := e.matchMask, ingress := e.ingress, forward := 0
      kinds := e.kinds, reserved8 := 0, lo := e.lo, hi := e.hi, reserved9 := 0, newPrio := 0, reserved10 := 0
      rwValue := 0, rwMask := 0, flowIx := flowByte e.flow } := by
  unfold ruleImage
  rw [h]
  cases e.flow <;> rfl

theorem ruleImage_forward {e : RuleEntry} {set : PortSet} {newPrio : Option Prio} {rewrite : Option Rewrite}
    (h : e.action = .forward set newPrio rewrite) : ruleImage e =
    { valid := e.valid, dropAction := false, hasPrio := newPrio.isSome, hasRewrite := rewrite.isSome
      hasFlow := e.flow.isSome, reserved0 := 0, matchValue := e.matchValue, matchMask := e.matchMask
      ingress := e.ingress, forward := set, kinds := e.kinds, reserved8 := 0, lo := e.lo, hi := e.hi, reserved9 := 0
      newPrio := newPrio.getD 0, reserved10 := 0, rwValue := rewrite.elim 0 fun w => w.value
      rwMask := rewrite.elim 0 fun w => w.mask, flowIx := flowByte e.flow } := by
  unfold ruleImage
  rw [h]
  cases e.flow <;> cases rewrite <;> rfl

/-- A bound flow's index, which the checks keep in range, gives back its byte. -/
theorem flowByte_flowArg {x : Byte} (h : x.toNat < 128) : flowByte (flowArg x) = x := by
  rw [flowArg_of_lt h]
  refine BitVec.eq_of_toNat_eq ((toNat_byteOf ?_).trans (Nat.mod_eq_of_lt h))
  have := Nat.mod_lt x.toNat (show 128 > 0 by decide)
  show x.toNat % 128 ≤ 255
  omega

theorem storedFlow {m : RuleImage} (hflow : m.hasFlow = true → m.flowIx.toNat < 128)
    (hnone : m.hasFlow = false → m.flowIx = 0) :
    (if m.hasFlow then flowArg m.flowIx else none).isSome = m.hasFlow
      ∧ flowByte (if m.hasFlow then flowArg m.flowIx else none) = m.flowIx := by
  cases hf : m.hasFlow with
  | true =>
    rw [if_pos rfl]
    exact ⟨by rw [flowArg_of_lt (hflow hf)]; rfl, flowByte_flowArg (hflow hf)⟩
  | false => exact ⟨rfl, (hnone hf).symm⟩

/-- The optional parts of a FORWARD entry give back their flags and fields, absent parts being 0. -/
theorem storedPrio {b : Bool} {v : Prio} (h : b = false → v = 0) :
    (if b then some v else none).isSome = b ∧ (if b then some v else none).getD 0 = v := by
  cases b with
  | true => exact ⟨rfl, rfl⟩
  | false => exact ⟨rfl, (h rfl).symm⟩

theorem storedRewrite {b : Bool} {v m : Tag} (h : b = false → v = 0 ∧ m = 0) :
    let w : Option Rewrite := if b then some { value := v &&& m, mask := m } else none
    w.isSome = b ∧ (w.elim 0 fun w => w.value) = v &&& m ∧ (w.elim 0 fun w => w.mask) = m := by
  cases b with
  | true => exact ⟨rfl, rfl, rfl⟩
  | false =>
    obtain ⟨rfl, rfl⟩ := h rfl
    exact ⟨rfl, rfl, rfl⟩

/-- What an image of a valid entry stores. -/
theorem ruleOfImage_valid {m : RuleImage} (h : m.valid = true) : ruleOfImage m =
    { valid := true, matchValue := m.matchValue &&& m.matchMask, matchMask := m.matchMask, ingress := m.ingress
      kinds := m.kinds, lo := m.lo, hi := m.hi
      action := if m.dropAction then .drop
        else .forward m.forward (if m.hasPrio then some m.newPrio else none)
          (if m.hasRewrite then some { value := m.rwValue &&& m.rwMask, mask := m.rwMask } else none)
      flow := if m.hasFlow then flowArg m.flowIx else none } := if_pos h

theorem ruleImage_ruleOfImage {m : RuleImage} (h : ruleImageOk m = true) (hv : m.valid = true) :
    ruleImage (ruleOfImage m) = normalised m := by
  obtain ⟨-, -, -, -, hdrop, -, hrewrite, hflow, hnoflow, hprio, h0, h8, h9, h10⟩ := (ruleImageOk_iff m).1 h
  obtain ⟨hflowSome, hflowIx⟩ := storedFlow hflow hnoflow
  rw [ruleOfImage_valid hv]
  unfold normalised
  cases hd : m.dropAction with
  | true =>
    obtain ⟨hp, hr, hforward⟩ := hdrop hd
    obtain ⟨hvalue, hmask⟩ := hrewrite hr
    rw [ruleImage_drop (by rfl), hflowSome, hflowIx, hv, hp, hr, h0, h8, h9, h10, hforward, hprio hp, hvalue, hmask]
    rfl
  | false =>
    obtain ⟨hprioSome, hprioGet⟩ := storedPrio hprio
    obtain ⟨hrewriteSome, hrewriteValue, hrewriteMask⟩ := storedRewrite hrewrite
    rw [ruleImage_forward (by rfl), hprioSome, hprioGet, hrewriteSome, hrewriteValue, hrewriteMask, hflowSome, hflowIx, hv,
      h0, h8, h9, h10]

/-- The checks look at neither value but for its presence. -/
theorem ruleImageOk_normalised {m : RuleImage} (h : ruleImageOk m = true) : ruleImageOk (normalised m) = true := by
  obtain ⟨h1, h2, h3, h4, h5, h6, hrewrite, hrest⟩ := (ruleImageOk_iff m).1 h
  refine (ruleImageOk_iff (normalised m)).2 ⟨h1, h2, h3, h4, h5, h6, fun hr => ?_, hrest⟩
  obtain ⟨hvalue, hmask⟩ := hrewrite hr
  exact ⟨by show m.rwValue &&& m.rwMask = 0; rw [hvalue]; exact BitVec.zero_and, hmask⟩

theorem ruleOfImage_normalised (m : RuleImage) : ruleOfImage (normalised m) = ruleOfImage m := by
  unfold ruleOfImage normalised
  dsimp only
  rw [and_mask_twice, and_mask_twice]

theorem flowConfigOf_flowImage {c : FlowConfig} (h : c.wf) : flowConfigOf (flowImage c) = c := by
  obtain ⟨-, -, -, -, hloss, hrate, -, hburst⟩ := h
  obtain ⟨period, tolerance, lossLimit, rate, burst, overAction, late, lost, recovered⟩ := c
  dsimp only at hloss hrate hburst
  have hrecovered : (0#5 ++ bit recovered ++ bit lost ++ bit late).getLsbD 2 = recovered :=
    (getLsbD_append_bit_succ _ late 1).trans ((getLsbD_append_bit_succ _ lost 0).trans (getLsbD_append_bit _ recovered))
  have hlost : (0#5 ++ bit recovered ++ bit lost ++ bit late).getLsbD 1 = lost :=
    (getLsbD_append_bit_succ _ late 0).trans (getLsbD_append_bit _ lost)
  have hlate : (0#5 ++ bit recovered ++ bit lost ++ bit late).getLsbD 0 = late := getLsbD_append_bit _ late
  unfold flowConfigOf flowImage
  dsimp only
  rw [hrecovered, hlost, hlate, toNat_byteOf (by omega), toNat_half hrate, toNat_half hburst]
  cases overAction <;> rfl

theorem notifyByte_lt : ∀ a b c : Bool, (0#5 ++ bit a ++ bit b ++ bit c).toNat < 8 := by decide

theorem flagsByte_lt : ∀ a b : Bool, (0#6 ++ bit a ++ bit b).toNat < 4 := by decide

theorem flowImageOk_flowImage {c : FlowConfig} (h : c.wf) : flowImageOk (flowImage c) = true := by
  obtain ⟨h1, h2, h3, hloss1, hloss, hrate, hburst1, hburst⟩ := h
  have hloss' : (byteOf c.lossLimit).toNat = c.lossLimit := toNat_byteOf (by omega)
  refine (flowImageOk_iff _).2 ⟨h1, h2, h3, hloss'.symm ▸ hloss1, hloss'.symm ▸ hloss, fun h0 => ?_, ?_, ?_⟩
  · have hzero : c.burst = 0 := (toNat_half hburst).symm.trans (congrArg BitVec.toNat h0)
    omega
  · show (match c.overAction with | .drop => (0 : Byte) | .demote => 1).toNat ≤ 1
    cases c.overAction <;> decide
  · exact notifyByte_lt c.notifyRecovered c.notifyLost c.notifyLate

theorem portConfigOf_portImage {c : PortConfig} (h : c.wf) : portConfigOf (portImage c) = c := by
  obtain ⟨-, hlimit, hage, -, hwarn, hquarantine, -, hleak, -, hhold, -, htime⟩ := h
  obtain ⟨enable, accepts, queueLimit, ageLimit, warn, quarantine, leak, hold, time⟩ := c
  dsimp only at hlimit hage hwarn hquarantine hleak hhold htime
  have haccepts : (0#6 ++ bit accepts ++ bit enable).getLsbD 1 = accepts :=
    (getLsbD_append_bit_succ _ enable 0).trans (getLsbD_append_bit _ accepts)
  have henable : (0#6 ++ bit accepts ++ bit enable).getLsbD 0 = enable := getLsbD_append_bit _ enable
  unfold portConfigOf portImage
  dsimp only
  rw [haccepts, henable, toNat_byteOf (by omega), toNat_byteOf hage, toNat_half (by omega), toNat_half (by omega),
    toNat_byteOf hleak, toNat_byteOf hhold, toNat_byteOf htime]

theorem portImageOk_portImage {c : PortConfig} (h : c.wf) : portImageOk (portImage c) = true := by
  obtain ⟨hlimit1, hlimit, hage, hwarn1, hwarn, hquarantine, hleak1, hleak, hhold1, hhold, htime1, htime⟩ := h
  rw [portImageOk_iff]
  unfold portImage
  dsimp only
  rw [toNat_byteOf (by omega), toNat_byteOf hleak, toNat_byteOf hhold, toNat_byteOf htime, toNat_half (by omega),
    toNat_half (by omega)]
  refine ⟨?_, hlimit1, hlimit, hwarn1, by omega, hleak1, hhold1, htime1, hwarn, hquarantine⟩
  exact flagsByte_lt c.accepts c.enable

/-- Settles O60: symbol by symbol, field by field, and stored form by stored form. -/
theorem encodingsRoundTrip : Obligations.EncodingsRoundTrip := by
  refine ⟨⟨fun _ _ => decode_encode, fun _ => encode_decode, fun h payload hlen hpay => ?frames⟩,
    fun m => ⟨rfl, ruleImageOf_ruleImageBytes m⟩, fun _ => ruleImageBytes_ruleImageOf,
    fun m => ⟨rfl, flowImageOf_flowImageBytes m⟩, fun m => ⟨rfl, portImageOf_portImageBytes m⟩, fun m hok hv => ?rules,
    fun c hc => ⟨flowImageOk_flowImage hc, flowConfigOf_flowImage hc⟩,
    fun c hc => ⟨portImageOk_portImage hc, portConfigOf_portImage hc⟩⟩
  case frames =>
    exact ⟨frameBytes_length, headerCheck_frameBytes, goodFrame_frameBytes hlen hpay, headerOf_frameBytes,
      payloadOf_frameBytes hlen hpay, wireBytes_frameBytes hlen hpay⟩
  case rules =>
    rw [ruleImage_ruleOfImage hok hv]
    refine ⟨ruleImageOk_normalised hok, ruleOfImage_normalised m, ?_⟩
    rw [ruleOfImage_valid hv]
    exact and_mask_outside m.matchValue m.matchMask

end Sys2Proof.Encodings
end
